-- ==== Sys2Proof/Word.lean ====
section
/-! DEFINITION. The words of TMCORE: the widths rule R7 fixes, and the three formats of spec/30_encoding.md
(rules R38 to R40) as data.  Bit 0 is the least significant bit everywhere (rule R10). -/

namespace Sys2Proof

/-- The Register, 8 bits unsigned (rule R13). -/
abbrev Register := BitVec 8

/-- Format SEL, the select word `{fh, fl, lt, fb}` that the priority mux decodes (rule R39). -/
abbrev SelectWord := BitVec 4

/-- A clamped threshold or draw on the 0..1023 scale (rule R41). -/
abbrev Sample := BitVec 10

/-- A VoltageCode, 12 bits unsigned (rule R7). -/
abbrev Code := BitVec 12

/-- The word passed to `DacSend`, 16 bits (rules R29, R65). -/
abbrev DacWord := BitVec 16

/-- Format CW, the five values sampled at one recognised edge (rule R38).  The two raw samples are numbers because
their width is the strap `SAMPLE_W`; `ControlWord.fits` says that they lie in that width. -/
structure ControlWord where
  /-- sample of `force_hi` -/
  fh : Bool
  /-- sample of `force_lo` -/
  fl : Bool
  /-- sample of `thr_raw` -/
  thrRaw : Nat
  /-- sample of `rnd_raw` -/
  rndRaw : Nat
  /-- sample of `fb_ext` -/
  fbExt : Bool
deriving DecidableEq, Repr

/-- The words that have an operation, each with the format it stands in: a select word at the priority mux (rule R39)
or an operand at VoltageEncoder (rule R40).  No bit of either word names its format; the unit that receives it does. -/
inductive FormatWord where
  | sel (w : SelectWord)
  | enc (r : Register)
deriving DecidableEq, Repr

end Sys2Proof
end

