-- ==== Sys2Proof/Config.lean ====
section
/-! DEFINITION. The straps of TMCORE (rules R8, R9, R19): what an implementation fixes before reset and what no event
writes.  They are plain data and every statement about the model holds for every value of them. -/

namespace Sys2Proof

/-- The strap `FB_SEL` (rules R8, R19): where the feedback bit comes from. -/
inductive FbSel where
  | int
  | ext
deriving DecidableEq, Repr

/-- The strap `ENC_IN_SPAN` (rule R8), whose two values are the only legal ones. -/
inductive InSpan where
  | s255
  | s256
deriving DecidableEq, Repr

/-- The divisor of the linear scale (rule R62). -/
def InSpan.value : InSpan → Int
  | .s255 => 255
  | .s256 => 256

/-- The seven straps of rule R8, under the spec's names. -/
structure Straps where
  /-- `SEED`, OPEN in the spec: the value `R` takes at reset. -/
  seed : Register
  /-- `FB_SEL` -/
  fbSel : FbSel
  /-- `GATE_EVENTS` -/
  gateEvents : Bool
  /-- `SAMPLE_W`, the width in bits of the raw samples; legal from 10 on. -/
  sampleW : Nat
  /-- `ENC_IN_SPAN` -/
  encInSpan : InSpan
  /-- `ENC_OUT_LO` -/
  encOutLo : Int
  /-- `ENC_OUT_HI` -/
  encOutHi : Int
deriving DecidableEq, Repr

/-- The encoder configuration ENC-A of rule R9 put into `st`. -/
def Straps.encA (st : Straps) : Straps := { st with encInSpan := .s255, encOutLo := 0, encOutHi := 4095 }

/-- The encoder configuration ENC-B of rule R9 put into `st`. -/
def Straps.encB (st : Straps) : Straps := { st with encInSpan := .s256, encOutLo := 0, encOutHi := 4095 }

/-- The encoder configuration ENC-C of rule R9 put into `st`. -/
def Straps.encC (st : Straps) : Straps := { st with encInSpan := .s255, encOutLo := 15, encOutHi := 4079 }

/-- The seed of `State.reset` alone.  DESIGN CHOICE, unsafe (notes/assumptions/1.md): rule R8 leaves `SEED` open and
no document states it; nothing but `Straps.default` reads this value, and no statement rests on it. -/
def Config.resetSeed : Register := 0

/-- The defaults of rule R8's table, with `Config.resetSeed` for the open strap. -/
def Straps.default : Straps where
  seed := Config.resetSeed
  fbSel := .int
  gateEvents := false
  sampleW := 16
  encInSpan := .s255
  encOutLo := 0
  encOutHi := 4095

end Sys2Proof
end

