-- ==== Sys2Proof/Syntax.lean ====
section
/-! DEFINITION. The operations of spec/opcode_table.json, one constructor a row: the four arms of the priority mux
over format SEL (rule R44) and the one operation of VoltageEncoder over format ENC (rule R40). -/

namespace Sys2Proof

/-- The five operations.  The arguments of an arm are the bits of the select word that its row does not fix, in the
order of rule R39; an arm that does not depend on one of them (rules R54, R55) still carries it, so that no bit of the
word is lost.  The Register an arm works on is the machine's, not an operand of the word. -/
inductive Instr where
  /-- SETHI, force high (rule R54); `fl`, `lt`, `fb` are don't-cares. -/
  | sethi (fl lt fb : Bool)
  /-- SETLO, force low (rule R55); `lt`, `fb` are don't-cares. -/
  | setlo (lt fb : Bool)
  /-- FLIP, the complement of the feedback bit (rule R56). -/
  | flip (fb : Bool)
  /-- PASS, the feedback bit itself (rule R57). -/
  | pass (fb : Bool)
  /-- ENCODE, the code of the register value `r` (rule R64). -/
  | encode (r : Register)
deriving DecidableEq, Repr

end Sys2Proof
end

