-- ==== Sys2Proof/WellFormed.lean ====
section
/-! DEFINITION. The legal values of spec/00_scope.md rule R8 and spec/10_state.md rules R19, R20: straps in their
domains, samples in the width of their ports.  Every operation of the opcode table is legal with every operand
(rule R45). -/

namespace Sys2Proof

/-- The check of `SAMPLE_W` (rule R8: integer >= 10). -/
def Straps.sampleWLegal (st : Straps) : Bool := 10 ≤ st.sampleW

/-- The check of `ENC_OUT_LO` (rule R8: integer, -32768..32767). -/
def Straps.outLoLegal (st : Straps) : Bool := -32768 ≤ st.encOutLo && st.encOutLo ≤ 32767

/-- The check of `ENC_OUT_HI` (rule R8: integer, ENC_OUT_LO..32767). -/
def Straps.outHiLegal (st : Straps) : Bool := st.encOutLo ≤ st.encOutHi && st.encOutHi ≤ 32767

/-- Every strap in its domain.  `SEED`, `FB_SEL`, `GATE_EVENTS` and `ENC_IN_SPAN` are legal by their types. -/
def Straps.legal (st : Straps) : Bool := st.sampleWLegal && st.outLoLegal && st.outHiLegal

/-- Both raw samples lie in the `w` bits of their ports (rule R20: 0 .. 2^SAMPLE_W - 1). -/
def ControlWord.fits (w : Nat) (cw : ControlWord) : Bool := cw.thrRaw < 2 ^ w && cw.rndRaw < 2 ^ w

/-- Rule R45: no select word and no encoder operand is illegal. -/
def Instr.wellFormed : Instr → Bool
  | .sethi _ _ _ => true
  | .setlo _ _ => true
  | .flip _ => true
  | .pass _ => true
  | .encode _ => true

end Sys2Proof
end

