-- ==== Sys2Proof/Decode.lean ====
section
/-! DEFINITION. The three formats of spec/30_encoding.md read and written: the select word through the match and mask
table of rule R44, the encoder operand of rule R40, the control word of rule R38, and after them the encoder. -/

namespace Sys2Proof

/-! ### Format SEL: the opcode map of rule R44 -/

/-- One row of rule R44's table over the select word. -/
structure SelRow where
  mnemonic : String
  matchBits : SelectWord
  maskBits : SelectWord
deriving DecidableEq, Repr

def rowSETHI : SelRow := { mnemonic := "SETHI", matchBits := 0b1000#4, maskBits := 0b1000#4 }
def rowSETLO : SelRow := { mnemonic := "SETLO", matchBits := 0b0100#4, maskBits := 0b1100#4 }
def rowFLIP : SelRow := { mnemonic := "FLIP", matchBits := 0b0010#4, maskBits := 0b1110#4 }
def rowPASS : SelRow := { mnemonic := "PASS", matchBits := 0b0000#4, maskBits := 0b1110#4 }

/-- The four rows over format SEL. -/
def selRows : List SelRow := [rowSETHI, rowSETLO, rowFLIP, rowPASS]

/-- `sel & mask = match` (rule R44). -/
def SelRow.hits (row : SelRow) (w : SelectWord) : Bool := w &&& row.maskBits == row.matchBits

/-- The priority mux's decode (rule R44), total over the 16 select words (rule R45).  The bits a row does not fix are
the operands; rule R39 gives their places.  No select word misses all four rows (test_sel_rows_cover), so the last
alternative is row PASS. -/
def decodeSel (w : SelectWord) : Instr :=
  if rowSETHI.hits w then .sethi (w.getLsbD 2) (w.getLsbD 1) (w.getLsbD 0)
  else if rowSETLO.hits w then .setlo (w.getLsbD 1) (w.getLsbD 0)
  else if rowFLIP.hits w then .flip (w.getLsbD 0)
  else .pass (w.getLsbD 0)

/-- Format ENC has no opcode bits: every operand is ENCODE of itself (rule R40). -/
def decodeEnc (r : Register) : Instr := .encode r

/-- The decoder over both formats: total, refusing nothing (rule R45). -/
def decode : FormatWord → Instr
  | .sel w => decodeSel w
  | .enc r => decodeEnc r

/-! ### The same decode from a bare number -/

/-- The two formats that hold operations. -/
inductive WordFormat where
  | sel
  | enc
deriving DecidableEq, Repr

/-- Why a bare number is no word of a format.  This is a check on how a word is handed to the model, not a behaviour of
the block: rule R45 makes every word that has its format's width legal. -/
inductive DecodeReject where
  /-- No format that holds operations has this many bits (rule R46: SEL has 4, ENC has 8). -/
  | noSuchFormat (nbits : Nat)
  /-- The number does not fit its format's bits. -/
  | tooWide (format : WordFormat) (w : Nat)
deriving DecidableEq, Repr

/-- A number read as a word of a format. -/
def formatWord (format : WordFormat) (w : Nat) : Except DecodeReject FormatWord :=
  match format with
  | .sel => if w < 16 then .ok (.sel (BitVec.ofNat 4 w)) else .error (.tooWide .sel w)
  | .enc => if w < 256 then .ok (.enc (BitVec.ofNat 8 w)) else .error (.tooWide .enc w)

/-- The format of a word that comes with its length alone.  4 bits are SEL.  The host rounds a length up to whole bytes,
so 8 bits may be either format; DESIGN CHOICE (notes/assumptions/5.md): a number below 16 is then a select word and any
other an encoder operand. -/
def formatOfLength (nbits w : Nat) : Except DecodeReject WordFormat :=
  if nbits == 4 then .ok .sel
  else if nbits == 8 then .ok (if w < 16 then .sel else .enc)
  else .error (.noSuchFormat nbits)

/-- The word that `nbits` and `w` name. -/
def tableFormatWord (nbits w : Nat) : Except DecodeReject FormatWord :=
  match formatOfLength nbits w with
  | .ok format => formatWord format w
  | .error e => .error e

/-- The host's decode question, with the length convention of `formatOfLength`. -/
def decodeTableWord (nbits w : Nat) : Option Instr :=
  match tableFormatWord nbits w with
  | .ok fw => some (decode fw)
  | .error _ => none

/-! ### The encoder -/

/-- `{a, b, c, d}`: the select word of four bits, rule R39. -/
def selectWord (fh fl lt fb : Bool) : SelectWord :=
  BitVec.ofBool fh ++ BitVec.ofBool fl ++ BitVec.ofBool lt ++ BitVec.ofBool fb

/-- The word of an operation, from the columns of rule R44's table and the places of rules R39, R40. -/
def encode : Instr → FormatWord
  | .sethi fl lt fb => .sel (selectWord true fl lt fb)
  | .setlo lt fb => .sel (selectWord false true lt fb)
  | .flip fb => .sel (selectWord false false true fb)
  | .pass fb => .sel (selectWord false false false fb)
  | .encode r => .enc r

/-! ### Format CW, the control word of rule R38 -/

/-- The control word as one number of `2*w + 3` bits, `w` standing for `SAMPLE_W`. -/
def packCw (w : Nat) (cw : ControlWord) : Nat :=
  cw.fh.toNat * 2 ^ (2 * w + 2) + cw.fl.toNat * 2 ^ (2 * w + 1) + cw.thrRaw * 2 ^ (w + 1) + cw.rndRaw * 2
    + cw.fbExt.toNat

/-- The five fields of a control word of `2*w + 3` bits: `[2w+2]` fh, `[2w+1]` fl, `[2w:w+1]` thr_raw, `[w:1]` rnd_raw,
`[0]` fb_ext. -/
def unpackCw (w n : Nat) : ControlWord where
  fh := n.testBit (2 * w + 2)
  fl := n.testBit (2 * w + 1)
  thrRaw := n / 2 ^ (w + 1) % 2 ^ w
  rndRaw := n / 2 % 2 ^ w
  fbExt := n.testBit 0

end Sys2Proof
end

