-- ==== Sys2Proof/Machine/Flags.lean ====
section
/-! DEFINITION. The block has no status flags (rule R17).  The one truth value it computes is the comparator's output
`lt` (rule R42), which is consumed inside the event and not kept. -/

namespace Sys2Proof.Machine

/-- `lt = (rnd <u thr) ? 1 : 0` (rule R42): unsigned and strict. -/
def comparator (rnd thr : Sample) : Bool := decide (rnd.toNat < thr.toNat)

end Sys2Proof.Machine
end

