-- ==== Sys2Proof/Machine/State.lean ====
section
/-! DEFINITION. The state of TMCORE (spec/10_state.md), the events that drive it (rule R12), the observations the spec
lets a model keep (rules R16, R29), the reasons a step can stop, and the state after reset (rule R22). -/

namespace Sys2Proof.Machine

/-- The three kinds of event (rules R12, R47).  Only `edge` carries a payload. -/
inductive Event where
  | reset
  | edge (cw : ControlWord)
  | done
deriving DecidableEq, Repr

/-- The samples an event carries fit their ports (rule R20). -/
def Event.fits (w : Nat) : Event → Bool
  | .reset => true
  | .edge cw => cw.fits w
  | .done => true

/-- The reasons a step stops with a fault: none.  Rule R76: the complete list of exceptions is the empty list. -/
inductive Fault where
deriving DecidableEq, Repr

/-- The reasons a step is refused. -/
inductive Refusal where
  /-- Raised by an arm of `exec` whose instruction has no meaning; no arm raises it in this model.  Safe. -/
  | notModelled (mnemonic : String)
deriving DecidableEq, Repr

structure State where
  /-- The Register `R` (rule R13), the block's one general register. -/
  R : Register
  /-- The busy bit (rule R18). -/
  busy : Bool
  /-- The straps (rules R8, R19): configuration, which no event writes. -/
  straps : Straps
  /-- MODEL'S OWN.  The value rule R70 calls `code`, present only inside one event, from ENCODE to `DacSend`
  (rule R15); between events it is `none`. -/
  encResult : Option Code
  /-- MODEL'S OWN.  The events the environment is still going to deliver, the next one first; no storage of the
  block (rule R80: nothing is pending). -/
  stimulus : List Event
  /-- The DAC trace (rules R29, R73): the words sent since the last `Reset`, oldest first; an observation. -/
  dacTrace : List DacWord
  /-- MODEL'S OWN observation.  Every word ever given to the driver, oldest first; a `Reset` does not call one back
  (rule R87). -/
  sent : List DacWord
  /-- MODEL'S OWN observation.  How many times the five inputs have been sampled (rule R33). -/
  sampleCount : Nat
deriving DecidableEq, Repr

/-- The state after a `Reset` of a block with the straps `st` (rule R22), nothing having happened before it and no
event to come. -/
def State.resetOf (st : Straps) : State where
  R := st.seed
  busy := false
  straps := st
  encResult := none
  stimulus := []
  dacTrace := []
  sent := []
  sampleCount := 0

/-- The state after reset under the default straps (notes/assumptions/1.md for the seed). -/
def State.reset : State := State.resetOf Straps.default

end Sys2Proof.Machine
end

