-- ==== Sys2Proof/Machine/Operands.lean ====
section
/-! DEFINITION. From the five samples of a recognised edge to the select word: the sample primitives (rules R26 to
R28), the clamp (rule R41), the feedback choice (rule R43) and the assembly (rule R39). -/

namespace Sys2Proof.Machine

/-- `SampleForceHigh()` (rule R26). -/
def sampleForceHigh (cw : ControlWord) : Bool := cw.fh

/-- `SampleForceLow()` (rule R26). -/
def sampleForceLow (cw : ControlWord) : Bool := cw.fl

/-- `SampleThreshold()` (rule R27): the `SAMPLE_W` bits of the port.  On a control word that fits its ports this is the
number the word holds (notes/assumptions/6.md for one that does not). -/
def sampleThreshold (st : Straps) (cw : ControlWord) : Nat := cw.thrRaw % 2 ^ st.sampleW

/-- `SampleRandom()` (rule R27); as `sampleThreshold`. -/
def sampleRandom (st : Straps) (cw : ControlWord) : Nat := cw.rndRaw % 2 ^ st.sampleW

/-- `SampleFeedback()` (rule R28). -/
def sampleFeedback (cw : ControlWord) : Bool := cw.fbExt

/-- `Sat10(x) = min(x, 1023)`, a 10-bit value (rule R41). -/
def sat10 (x : Nat) : Sample := BitVec.ofNat 10 (min x 1023)

/-- `fb = (FB_SEL = INT) ? R[7] : fb_ext` (rule R43), `r` the Register before the edge's write. -/
def feedbackBit (st : Straps) (r : Register) (fbExt : Bool) : Bool :=
  match st.fbSel with
  | .int => r.getLsbD 7
  | .ext => fbExt

/-- The comparator's output for the samples of `cw`, both clamped (rules R41, R42). -/
def comparatorOf (st : Straps) (cw : ControlWord) : Bool :=
  comparator (sat10 (sampleRandom st cw)) (sat10 (sampleThreshold st cw))

/-- `sel = {fh, fl, lt, fb}` (rule R39). -/
def assembleSelect (st : Straps) (r : Register) (cw : ControlWord) : SelectWord :=
  selectWord (sampleForceHigh cw) (sampleForceLow cw) (comparatorOf st cw)
    (feedbackBit st r (sampleFeedback cw))

end Sys2Proof.Machine
end

