-- ==== Sys2Proof/Machine/Ops.lean ====
section
/-! DEFINITION. The named operations over the state: the writes of `R` and `busy`, the value of `code` inside an event,
`DacSend` (rule R29) and the sequencing of outcomes.  The block takes no exception (rule R76), so there is no exception
entry and no return from one here. -/

namespace Sys2Proof.Machine

/-- `R <- v`: all 8 bits change together (notation of spec/00_scope.md; rule R32). -/
def State.writeR (v : Register) (s : State) : State := { s with R := v }

/-- `busy <- b`. -/
def State.setBusy (b : Bool) (s : State) : State := { s with busy := b }

/-- `code = v` inside an event (rule R70). -/
def State.setEncResult (v : Code) (s : State) : State := { s with encResult := some v }

/-- The end of an event: `code` is not kept (rule R15). -/
def State.dropEncResult (s : State) : State := { s with encResult := none }

/-- `DacSend(w)` (rule R29): one word on `dac_word`, one occurrence on `dac_req`, one entry of the DAC trace.  It
returns nothing and cannot fail. -/
def State.dacSend (w : DacWord) (s : State) : State :=
  { s with dacTrace := s.dacTrace ++ [w], sent := s.sent ++ [w] }

/-- The five inputs are sampled, each once and at one instant (rules R32, R33). -/
def State.countSample (s : State) : State := { s with sampleCount := s.sampleCount + 1 }

/-- The next event is taken from the environment. -/
def State.popEvent (s : State) : State := { s with stimulus := s.stimulus.tail }

/-- Run `f` on the state that `o` answers; a stop stays a stop. -/
def andThen (o : Host.Outcome State Fault Refusal) (f : State → Host.Outcome State Fault Refusal) :
    Host.Outcome State Fault Refusal :=
  match o with
  | .next s => f s
  | .fault r => .fault r
  | .refused r => .refused r

end Sys2Proof.Machine
end

