-- ==== Sys2Proof/Machine/SequenceEngine.lean ====
section
/-! DEFINITION. SequenceEngine (spec/40_sequence_engine.md): the three stages of `Step`, `Step` itself, and the meanings
of the four arms of the priority mux. -/

namespace Sys2Proof.Machine

/-- `Rotl8(r) = ((r << 1) | (r >> 7)) & 0xFF` (rule R51); the width of the word is the mask. -/
def rotl8 (r : Register) : Register := (r <<< 1) ||| (r >>> 7)

/-- `Commit(rot, nb) = (rot & 0xFE) | nb` (rule R52, the adopted formula of conflict C1). -/
def commit (rot : Register) (nb : Bool) : Register := (rot &&& 0xFE#8) ||| (BitVec.ofBool nb).setWidth 8

/-- `NextBit = fh ? 1 : (fl ? 0 : (lt ? ~fb : fb))` (rule R50). -/
def nextBit (fh fl lt fb : Bool) : Bool :=
  if fh then true else if fl then false else if lt then !fb else fb

/-- `Step(r, fh, fl, thr, rnd, fb)` (rule R53), the composition of the three stages. -/
def seqStep (r : Register) (fh fl : Bool) (thr rnd : Sample) (fb : Bool) : Register :=
  commit (rotl8 r) (nextBit fh fl (comparator rnd thr) fb)

/-- The write every arm ends in: rotate the old Register, replace its low bit by `nb` (rules R51, R52, R60). -/
def State.shiftIn (nb : Bool) (s : State) : State := s.writeR (commit (rotl8 s.R) nb)

/-- SETHI (rule R54): `nb = 1`. -/
def execSethi (_fl _lt _fb : Bool) (s : State) : Host.Outcome State Fault Refusal := .next (s.shiftIn true)

/-- SETLO (rule R55): `nb = 0`. -/
def execSetlo (_lt _fb : Bool) (s : State) : Host.Outcome State Fault Refusal := .next (s.shiftIn false)

/-- FLIP (rule R56): `nb = ~fb`. -/
def execFlip (fb : Bool) (s : State) : Host.Outcome State Fault Refusal := .next (s.shiftIn (!fb))

/-- PASS (rule R57): `nb = fb`. -/
def execPass (fb : Bool) (s : State) : Host.Outcome State Fault Refusal := .next (s.shiftIn fb)

end Sys2Proof.Machine
end

