-- ==== Sys2Proof/Machine/VoltageEncoder.lean ====
section
/-! DEFINITION. VoltageEncoder (spec/41_voltage_encoder.md): the linear scale, the clamp, the 16-bit word, the meaning of
ENCODE, and the outputs that are wires from the state (rule R37). -/

namespace Sys2Proof.Machine

/-- `Scale(r) = ENC_OUT_LO + ((r * (ENC_OUT_HI - ENC_OUT_LO)) div ENC_IN_SPAN)` on mathematical integers (rule R62).
The divisor is positive, so `/` is floor division. -/
def scale (st : Straps) (r : Register) : Int :=
  st.encOutLo + ((r.toNat : Int) * (st.encOutHi - st.encOutLo)) / st.encInSpan.value

/-- `Clamp12(v) = max(0, min(4095, v))` (rule R63). -/
def clamp12 (v : Int) : Int := max 0 (min 4095 v)

/-- `Encode(r) = Clamp12(Scale(r))` (rule R64), as the 12-bit value it is. -/
def voltageCode (st : Straps) (r : Register) : Code := BitVec.ofNat 12 (clamp12 (scale st r)).toNat

/-- `Word16(code) = zext_16(code)` (rule R65). -/
def word16 (code : Code) : DacWord := code.setWidth 16

/-- ENCODE (rule R64): `code` becomes `Encode(r)`.  No state of the block is read or written; the result stands in
`encResult` for the rest of the event. -/
def execEncode (r : Register) (s : State) : Host.Outcome State Fault Refusal :=
  .next (s.setEncResult (voltageCode s.straps r))

/-- The output `reg_q` (rule R37). -/
def State.regQ (s : State) : Register := s.R

/-- The output `code` between events (rule R37). -/
def State.codeOut (s : State) : Code := voltageCode s.straps s.R

/-- The output `busy` (rules R18, R25). -/
def State.busyOut (s : State) : Bool := s.busy

end Sys2Proof.Machine
end

