-- ==== Sys2Proof/Machine/Dispatch.lean ====
section
/-! DEFINITION. The one match from an operation of the opcode table to its meaning. -/

namespace Sys2Proof.Machine

def exec (i : Instr) (s : State) : Host.Outcome State Fault Refusal :=
  match i with
  -- the four arms of the priority mux (spec/40_sequence_engine.md)
  | .sethi fl lt fb => Sys2Proof.Machine.execSethi fl lt fb s
  | .setlo lt fb => Sys2Proof.Machine.execSetlo lt fb s
  | .flip fb => Sys2Proof.Machine.execFlip fb s
  | .pass fb => Sys2Proof.Machine.execPass fb s
  -- VoltageEncoder (spec/41_voltage_encoder.md)
  | .encode r => Sys2Proof.Machine.execEncode r s

end Sys2Proof.Machine
end

