-- ==== Sys2Proof/Machine/EventCycle.lean ====
section
/-! DEFINITION. What each event does (spec/42_event_cycle.md, spec/70_reset_and_hazards.md rule R87), the order of
coinciding occurrences (rule R81), the pseudo-statements of rule R49, and how a word is put where the next event runs
it. -/

namespace Sys2Proof.Machine

/-! ### Edge -/

/-- The condition of rules R70 and R71: the edge is recognised unless `GATE_EVENTS = 1` and `busy = 1`. -/
def State.recognises (s : State) : Bool := !(s.straps.gateEvents && s.busy)

/-- `DacSend(zext_16(code))` of the `code` that ENCODE left in this event (rules R29, R65, R70). -/
def State.sendCode (s : State) : State :=
  match s.encResult with
  | some code => (s.dacSend (word16 code)).dropEncResult
  | none => s

/-- `if GATE_EVENTS = 1 then busy <- 1` (rule R70). -/
def State.markBusy (s : State) : State := if s.straps.gateEvents then s.setBusy true else s

/-- `Edge(cw)`, recognised (rule R70), in the rule's order: the samples make the select word, its arm writes `R`,
ENCODE runs on the value just written, the word is sent, `busy` is set when gating. -/
def recognisedEdge (cw : ControlWord) (s : State) : Host.Outcome State Fault Refusal :=
  andThen (exec (decode (.sel (assembleSelect s.straps s.R cw))) s.countSample) fun t =>
    andThen (exec (decode (.enc t.R)) t) fun u =>
      .next u.sendCode.markBusy

/-- `Edge(cw)`: recognised (rule R70), or dropped with no effect at all (rule R71). -/
def edge (cw : ControlWord) (s : State) : Host.Outcome State Fault Refusal :=
  if s.recognises then recognisedEdge cw s else .next s

/-! ### Done and Reset -/

/-- `Done` (rule R72): `if GATE_EVENTS = 1 then busy <- 0`. -/
def State.done (s : State) : State := if s.straps.gateEvents then s.setBusy false else s

/-- `Reset` (rule R87): `R <- SEED; busy <- 0`, and the DAC trace is empty.  Nothing is sampled and nothing is sent;
what was sent stays sent. -/
def State.resetEvent (s : State) : State :=
  { s with R := s.straps.seed, busy := false, encResult := none, dacTrace := [] }

/-- One event, complete before the next is considered (rules R12, R34). -/
def onEvent (e : Event) (s : State) : Host.Outcome State Fault Refusal :=
  match e with
  | .reset => .next s.resetEvent
  | .edge cw => edge cw s
  | .done => .next s.done

/-- The next event of the environment, if it has one to deliver; between events the state holds (rule R74). -/
def nextEvent (s : State) : Host.Outcome State Fault Refusal :=
  match s.stimulus with
  | [] => .next s
  | e :: _ => onEvent e s.popEvent

/-! ### Coinciding occurrences -/

/-- What occurs on the three event ports of rule R25 at one instant. -/
structure Occurrence where
  /-- an occurrence on `rst` -/
  rst : Bool
  /-- an occurrence on `evt`, with the five samples of that instant -/
  evt : Option ControlWord
  /-- an occurrence on `dac_done` -/
  dacDone : Bool
deriving DecidableEq, Repr

/-- Rule R81: a `Reset` discards what coincides with it; an `Edge` is evaluated before a `Done`. -/
def Occurrence.events (o : Occurrence) : List Event :=
  if o.rst then [.reset]
  else (match o.evt with
    | some cw => [.edge cw]
    | none => []) ++ (if o.dacDone then [.done] else [])

/-- The environment's next events are those of `o`, then what it was going to deliver. -/
def State.present (o : Occurrence) (s : State) : State := { s with stimulus := o.events ++ s.stimulus }

/-! ### The pseudo-statements of rule R49 -/

/-- SETHI = EDGE fh=1 fl=0 thr=0 rnd=0 fbx=0. -/
def pseudoSETHI : ControlWord := { fh := true, fl := false, thrRaw := 0, rndRaw := 0, fbExt := false }

/-- SETLO = EDGE fh=0 fl=1 thr=0 rnd=0 fbx=0. -/
def pseudoSETLO : ControlWord := { fh := false, fl := true, thrRaw := 0, rndRaw := 0, fbExt := false }

/-- FLIP [fbx=b] = EDGE fh=0 fl=0 thr=1023 rnd=0 fbx=b. -/
def pseudoFLIP (b : Bool) : ControlWord := { fh := false, fl := false, thrRaw := 1023, rndRaw := 0, fbExt := b }

/-- PASS [fbx=b] = EDGE fh=0 fl=0 thr=0 rnd=0 fbx=b. -/
def pseudoPASS (b : Bool) : ControlWord := { fh := false, fl := false, thrRaw := 0, rndRaw := 0, fbExt := b }

/-- ROT = PASS fbx=0, allowed only when FB_SEL = INT. -/
def pseudoROT (st : Straps) : Option ControlWord :=
  match st.fbSel with
  | .int => some (pseudoPASS false)
  | .ext => none

/-! ### Putting a word where the next event runs it -/

/-- `{b, r[6:0]}`: the Register `r` with its bit 7 replaced. -/
def withBit7 (b : Bool) (r : Register) : Register := BitVec.ofBool b ++ r.extractLsb' 0 7

/-- Samples whose select word is `w` once the feedback bit is `w[0]`: the forces are copied, `lt` is made by the
threshold and draw of rule R49's FLIP or PASS. -/
def samplesFor (w : SelectWord) : ControlWord where
  fh := w.getLsbD 3
  fl := w.getLsbD 2
  thrRaw := if w.getLsbD 1 then 1023 else 0
  rndRaw := 0
  fbExt := w.getLsbD 0

/-- `s` about to receive the edge `cw`, with `busy` down if gating would drop that edge. -/
def State.withEdgeNext (cw : ControlWord) (s : State) : State :=
  { s with stimulus := .edge cw :: s.stimulus, busy := s.busy && !s.straps.gateEvents }

/-- `s` about to run the word `fw` (notes/assumptions/4.md).  A select word arrives as an edge whose samples assemble to
it; with internal feedback its low bit is the Register's bit 7, so that bit is set.  An encoder operand `r` arrives as
the edge that commits `r`: the Register holds `r`'s upper bits one place down and the edge forces `r`'s low bit. -/
def State.withWordNext (fw : FormatWord) (s : State) : State :=
  match fw with
  | .sel w =>
    let t := s.withEdgeNext (samplesFor w)
    match s.straps.fbSel with
    | .int => t.writeR (withBit7 (w.getLsbD 0) s.R)
    | .ext => t
  | .enc r =>
    (s.withEdgeNext { fh := r.getLsbD 0, fl := !r.getLsbD 0, thrRaw := 0, rndRaw := 0, fbExt := false }).writeR
      (withBit7 (s.R.getLsbD 7) (r >>> 1))

/-- `s` about to run the word the host names by its length and value; `s` itself where there is no such word. -/
def State.withTableWordNext (nbits w : Nat) (s : State) : State :=
  match tableFormatWord nbits w with
  | .ok fw => s.withWordNext fw
  | .error _ => s

end Sys2Proof.Machine
end

