-- ==== Sys2Proof/Machine/Step.lean ====
section
/-! DEFINITION. The step of the machine, which is the processing of one event (rule R86), and the host's way of placing a
word.  The block fetches nothing (rule R16): a word runs because an event brings it. -/

namespace Sys2Proof.Machine

/-- One step: one event of the environment, or none. -/
def step (s : State) : Host.Outcome State Fault Refusal := nextEvent s

/-- `s` with the word `w` of `nbits` bits where the very next step runs it (`State.withWordNext`). -/
def State.withFetchWord (s : State) (nbits w : Nat) : State := s.withTableWordNext nbits w

end Sys2Proof.Machine
end

