-- ==== Sys2Proof/Machine/Reference.lean ====
section
/-! DEFINITION. The Register values of a run, computed from rule R73's recurrence alone (`R_0 = SEED`,
`R_k = Step(R_(k-1), ...)`), without the machine's state, decoder or dispatch; statements compare the machine with it. -/

namespace Sys2Proof.Machine

/-- `Step` applied to the samples of `cw` as rule R70 prepares them. -/
def edgeValue (st : Straps) (r : Register) (cw : ControlWord) : Register :=
  seqStep r cw.fh cw.fl (sat10 (sampleThreshold st cw)) (sat10 (sampleRandom st cw)) (feedbackBit st r cw.fbExt)

/-- The number of 1 bits of a Register, which the glossary calls population count. -/
def onesCount (r : Register) : Nat := (List.range 8).countP fun i => r.getLsbD i

/-- The three values rule R96 lets a claim observe of a run, the DAC trace as the Register values behind its words. -/
structure RunView where
  R : Register
  busy : Bool
  written : List Register
deriving DecidableEq, Repr

/-- One event on a `RunView` (rules R70 to R73, R87). -/
def RunView.after (st : Straps) (v : RunView) : Event → RunView
  | .reset => { R := st.seed, busy := false, written := [] }
  | .done => { v with busy := v.busy && !st.gateEvents }
  | .edge cw =>
    if st.gateEvents && v.busy then v
    else
      let new := edgeValue st v.R cw
      { R := new, busy := st.gateEvents || v.busy, written := v.written ++ [new] }

/-- The view after the events `es`, oldest first, of a run that starts with a `Reset`. -/
def RunView.ofRun (st : Straps) (es : List Event) : RunView :=
  es.foldl (RunView.after st) { R := st.seed, busy := false, written := [] }

end Sys2Proof.Machine
end

