-- ==== Sys2Proof/Machine/Run.lean ====
section
/-! DEFINITION. Runs of the block (rule R96): finite or infinite sequences of events that begin with a `Reset`.  A sequence
of events belongs to the environment, so it is no part of State; at each step the machine is handed its next event. -/

namespace Sys2Proof.Machine

/-- The environment delivers the event `e`, and the machine takes its step on it. -/
def deliver (e : Event) (s : State) : Host.Outcome State Fault Refusal := step { s with stimulus := [e] }

/-- The events of a run after the `Reset` it begins with (rule R96): the environment stops after some number of them, or
never does. -/
inductive EventSeq where
  | finite (es : List Event)
  | infinite (es : Nat → Event)

/-- The event after the first `k`, if the environment issues one. -/
def EventSeq.event? (k : Nat) : EventSeq → Option Event
  | .finite es => es[k]?
  | .infinite es => some (es k)

/-- The first `k` events, or all of them where there are fewer. -/
def EventSeq.take (k : Nat) : EventSeq → List Event
  | .finite es => es.take k
  | .infinite es => (List.range k).map es

/-- A run: what its start fixes, and the events after its first `Reset` (rule R96). -/
structure Run where
  straps : Straps
  events : EventSeq

/-- The machine after the first `Reset` and `k` further events.  Where the environment has stopped, the state is the one
after the last event. -/
def Run.after (r : Run) : Nat → Host.Outcome State Fault Refusal
  | 0 => .next (State.resetOf r.straps)
  | k + 1 =>
    andThen (r.after k) fun s =>
      match r.events.event? k with
      | some e => deliver e s
      | none => .next s

/-- `states` are the states an infinite run passes through: the state after its first `Reset`, then the state after each
further event. -/
def IsInfiniteRun (st : Straps) (es : Nat → Event) (states : Nat → State) : Prop :=
  states 0 = State.resetOf st ∧ ∀ k, deliver (es k) (states k) = .next (states (k + 1))

/-- What a claim may observe of `s` (rule R96) is what `v` says: `R`, `busy`, and the DAC trace as the codes of the
Register values written. -/
def State.Agrees (s : State) (v : RunView) : Prop :=
  s.R = v.R ∧ s.busy = v.busy ∧ s.dacTrace = v.written.map fun r => word16 (voltageCode s.straps r)

end Sys2Proof.Machine
end

