-- ==== Sys2Proof/Machine/Script.lean ====
section
/-! DEFINITION. The script language of rule R48 as data: a run of the block written down, with its checks.  Its text form
(comments, number bases) is the reader's notation and is not modelled. -/

namespace Sys2Proof.Machine

/-- The statements that may follow CONFIG. -/
inductive Stmt where
  | reset
  | edge (cw : ControlWord)
  | done
  /-- EXPECT R=<n> [code=<n>] [busy=<bit>] [sent=<k>]: a check, not an event. -/
  | expect (r : Register) (code : Option Code) (busy : Option Bool) (sent : Option Nat)
deriving DecidableEq, Repr

/-- The event a statement is, if it is one. -/
def Stmt.event? : Stmt → Option Event
  | .reset => some .reset
  | .edge cw => some (.edge cw)
  | .done => some .done
  | .expect _ _ _ _ => none

/-- EXPECT's check: the state, `code = Encode(R)`, and the number of words in the DAC trace since the last RESET. -/
def Stmt.holds (s : State) : Stmt → Bool
  | .expect r code busy sent =>
    s.regQ == r && code.all (s.codeOut == ·) && busy.all (s.busyOut == ·) && sent.all (s.dacTrace.length == ·)
  | .reset => true
  | .edge _ => true
  | .done => true

/-- A CONFIG line, which stands before the first RESET, and the lines after it. -/
structure Script where
  config : Straps
  body : List Stmt
deriving DecidableEq, Repr

/-- The lines run from `s`, one step for each event; `true` when every EXPECT holds where it stands. -/
def runStmts : List Stmt → State → Bool
  | [], _ => true
  | l :: ls, s =>
    match l.event? with
    | none => l.holds s && runStmts ls s
    | some e =>
      match deliver e s with
      | .next t => runStmts ls t
      | .fault _ => false
      | .refused _ => false

/-- A script passes when it begins with RESET (rules R90, R96: before it the state is unspecified) and every EXPECT
holds. -/
def Script.passes (p : Script) : Bool :=
  match p.body with
  | .reset :: ls => runStmts ls (State.resetOf p.config)
  | _ => false

/-- What a listing prints after an EDGE: the resolved select word and its arm, or nothing for a dropped edge. -/
def listing (cw : ControlWord) (s : State) : Option (SelectWord × Instr) :=
  let sel := assembleSelect s.straps s.R cw
  if s.recognises then some (sel, decodeSel sel) else none

end Sys2Proof.Machine
end

