-- ==== Sys2Proof/Safety.lean ====
section
/-! DEFINITION. What holds of the state between events in every run that starts with a `Reset` (rule R96), and what a
safe run is. -/

namespace Sys2Proof.Machine

/-- `k` steps of the machine, one event each, stopping where a step does not answer a next state. -/
def runFor (k : Nat) (s : State) : Host.Outcome State Fault Refusal := Host.Core.run Sys2Proof.core k s

/-- What the DAC trace says of the Register: while it is empty `R` is the seed (rules R22, R89), afterwards its last word
is the code of `R` as it stands (rules R37, R73). -/
def State.traceMatchesR (s : State) : Prop :=
  match s.dacTrace.getLast? with
  | none => s.R = s.straps.seed
  | some w => w = word16 (voltageCode s.straps s.R)

/-- The invariant of the state between events. -/
structure State.Inv (s : State) : Prop where
  /-- Rule R8: the straps are in their domains. -/
  straps_legal : s.straps.legal = true
  /-- Rule R20: the samples to come fit their ports. -/
  samples_fit : ∀ e ∈ s.stimulus, e.fits s.straps.sampleW = true
  /-- Rule R18: with `GATE_EVENTS = 0` `busy` is constantly 0. -/
  busy_gated : s.straps.gateEvents = false → s.busy = false
  /-- Rule R96: `busy = 1` means a send is outstanding, so one has taken place since the reset. -/
  busy_sent : s.busy = true → s.dacTrace ≠ []
  /-- Rule R15: no code is stored between events. -/
  code_dropped : s.encResult = none
  /-- Rule R37. -/
  trace_matches : s.traceMatchesR
  /-- Rule R29: the DAC trace is the latest part of what was given to the driver. -/
  trace_suffix : s.dacTrace <:+ s.sent
  /-- Rule R65: bits 15:12 of every word are zero. -/
  words_12bit : ∀ w ∈ s.sent, w.toNat ≤ 4095
  /-- Rule R33: the inputs are sampled once for every word sent. -/
  one_send_per_sample : s.sampleCount = s.sent.length

/-- A safe run: however many steps are taken, the machine is in a state that meets the invariant, and no step has
faulted or been refused (rule R76). -/
def SafeRun (s : State) : Prop := ∀ k, ∃ t, runFor k s = .next t ∧ t.Inv

end Sys2Proof.Machine
end

