-- ==== Sys2Proof/Certificates/Slice0/Obligations.lean ====
section
/-! DEFINITION. The statements about the model, from the numbered rules of spec/.  Where a title calls a clause the
model's own it names the log entry; every other clause is the cited rule's. -/

open Sys2Proof Sys2Proof.Machine

/-! ### Formats and decode (spec/30_encoding.md) -/

/-- Words written out from rule R44's table and rule R40 decode to the operations they stand for. -/
def Obligations.WrittenWordsDecode : Prop :=
  decode (.sel 0b1000#4) = .sethi false false false ∧
  decode (.sel 0b1101#4) = .sethi true false true ∧
  decode (.sel 0b0101#4) = .setlo false true ∧
  decode (.sel 0b0110#4) = .setlo true false ∧
  decode (.sel 0b0011#4) = .flip true ∧
  decode (.sel 0b0010#4) = .flip false ∧
  decode (.sel 0b0001#4) = .pass true ∧
  decode (.sel 0b0000#4) = .pass false ∧
  decode (.enc 0xB2#8) = .encode 0xB2#8

/-- Rule R44: the four patterns are disjoint and cover the 16 select words; the decode is the row that hits; the bit that
enters is the table's, which spec/95_test_vectors.md section 2.2 writes as the truth vector 0xFF06. -/
def Obligations.MuxDecodeIsTheTable : Prop :=
  ∀ w : SelectWord,
    (selRows.filter (·.hits w)).length = 1 ∧
    (w &&& 0b1000#4 = 0b1000#4 ↔ ∃ fl lt fb, decodeSel w = .sethi fl lt fb) ∧
    (w &&& 0b1100#4 = 0b0100#4 ↔ ∃ lt fb, decodeSel w = .setlo lt fb) ∧
    (w &&& 0b1110#4 = 0b0010#4 ↔ ∃ fb, decodeSel w = .flip fb) ∧
    (w &&& 0b1110#4 = 0b0000#4 ↔ ∃ fb, decodeSel w = .pass fb) ∧
    nextBit (w.getLsbD 3) (w.getLsbD 2) (w.getLsbD 1) (w.getLsbD 0) = (0xFF06 : Nat).testBit w.toNat

/-- Every operation is read back from its word, and every word of either format is written back from its operation: no
bit of an encoding is dropped, and each word has one meaning. -/
def Obligations.DecodeAndEncodeAreInverse : Prop :=
  (∀ i : Instr, i.wellFormed = true → decode (encode i) = i) ∧ (∀ fw : FormatWord, encode (decode fw) = fw)

/-- Rule R38 for every width: packing and unpacking a control word are inverse, its fields stand at the rule's bits, and
every number of `2*W + 3` bits is a control word whose samples fit their ports.  The default width and the rule's
example are the last two clauses. -/
def Obligations.ControlWordRoundTrip : Prop :=
  (∀ (w : Nat) (cw : ControlWord), cw.fits w = true →
    unpackCw w (packCw w cw) = cw ∧ packCw w cw < 2 ^ (2 * w + 3) ∧
    (packCw w cw).testBit (2 * w + 2) = cw.fh ∧ (packCw w cw).testBit (2 * w + 1) = cw.fl ∧
    (∀ i, i < w → (packCw w cw).testBit (w + 1 + i) = cw.thrRaw.testBit i) ∧
    (∀ i, i < w → (packCw w cw).testBit (1 + i) = cw.rndRaw.testBit i) ∧
    (packCw w cw).testBit 0 = cw.fbExt) ∧
  (∀ w n : Nat, n < 2 ^ (2 * w + 3) → packCw w (unpackCw w n) = n ∧ (unpackCw w n).fits w = true) ∧
  (∀ cw : ControlWord, packCw 16 cw =
    cw.fh.toNat * 2 ^ 34 + cw.fl.toNat * 2 ^ 33 + cw.thrRaw * 2 ^ 17 + cw.rndRaw * 2 + cw.fbExt.toNat) ∧
  packCw 16 { fh := false, fl := false, thrRaw := 512, rndRaw := 100, fbExt := false } = 0x0040000C8

/-- Rule R45: every word of either format has a meaning in every state, every number is a control word that an edge
completes on, both forces together are SETHI, a raw sample above 1023 means 1023. -/
def Obligations.EveryWordHasAMeaning : Prop :=
  (∀ (fw : FormatWord) (s : State), ∃ t, exec (decode fw) s = .next t) ∧
  (∀ (n : Nat) (s : State), ∃ t, edge (unpackCw s.straps.sampleW n) s = .next t) ∧
  (∀ lt fb : Bool, decode (.sel (selectWord true true lt fb)) = .sethi true lt fb) ∧
  (∀ x : Nat, 1023 < x → sat10 x = 1023#10) ∧
  (∀ w : Nat, w < 16 → decodeTableWord 4 w = some (decodeSel (BitVec.ofNat 4 w)))

/-- Rule R41. -/
def Obligations.SamplesClampTo1023 : Prop :=
  (∀ x : Nat, (sat10 x).toNat = min x 1023) ∧
  (∀ (st : Straps) (cw : ControlWord), cw.fits st.sampleW = true →
    comparatorOf st cw = decide (min cw.rndRaw 1023 < min cw.thrRaw 1023)) ∧
  (∀ w : Nat, 10 ≤ w → (sat10 (2 ^ w - 1)).toNat = 1023) ∧
  (∀ x : Nat, x < 2 ^ 10 → (sat10 x).toNat = x)

/-- Rule R42, its corner cases, and the count behind its probability: of the 1024 draws exactly `thr` give `lt = 1`. -/
def Obligations.ComparatorIsStrict : Prop :=
  (∀ rnd thr : Sample, comparator rnd thr = true ↔ rnd.toNat < thr.toNat) ∧
  (∀ rnd : Sample, comparator rnd 0#10 = false) ∧
  (∀ x : Sample, comparator x x = false) ∧
  (∀ rnd : Sample, comparator rnd 1023#10 = true ↔ rnd ≠ 1023#10) ∧
  (∀ (thrRaw : Nat) (rnd : Sample), 1023 < thrRaw → comparator rnd (sat10 thrRaw) = comparator rnd 1023#10) ∧
  comparator (sat10 65535) (sat10 5000) = false ∧
  (∀ thr : Sample, ((List.range 1024).countP fun d => comparator (sat10 d) thr) = thr.toNat)

/-- Rule R43, and rule R39's places of the four bits of the select word. -/
def Obligations.SelectWordIsAssembled : Prop :=
  ∀ (st : Straps) (r : Register) (cw : ControlWord),
    (st.fbSel = .int → feedbackBit st r cw.fbExt = r.getLsbD 7) ∧
    (st.fbSel = .ext → feedbackBit st r cw.fbExt = cw.fbExt) ∧
    (assembleSelect st r cw).getLsbD 3 = cw.fh ∧
    (assembleSelect st r cw).getLsbD 2 = cw.fl ∧
    (assembleSelect st r cw).getLsbD 1 = comparatorOf st cw ∧
    (assembleSelect st r cw).getLsbD 0 = feedbackBit st r cw.fbExt

/-- Rule R49, for every legal width of the samples: each pseudo-statement reaches the arm of its name in every state, with
the control word the rule gives at width 16; ROT exists only with internal feedback, where it is a pure rotate. -/
def Obligations.PseudoStatementsReachTheirArms : Prop :=
  (∀ (st : Straps) (r : Register) (b : Bool), st.legal = true →
    (∃ fb, decodeSel (assembleSelect st r pseudoSETHI) = .sethi false false fb) ∧
    (∃ fb, decodeSel (assembleSelect st r pseudoSETLO) = .setlo false fb) ∧
    (∃ fb, decodeSel (assembleSelect st r (pseudoFLIP b)) = .flip fb) ∧
    (∃ fb, decodeSel (assembleSelect st r (pseudoPASS b)) = .pass fb) ∧
    (st.fbSel = .int → pseudoROT st = some (pseudoPASS false) ∧ edgeValue st r (pseudoPASS false) = rotl8 r) ∧
    (st.fbSel = .ext → pseudoROT st = none)) ∧
  packCw 16 pseudoSETHI = 0x400000000 ∧ packCw 16 pseudoSETLO = 0x200000000 ∧
  (∀ b : Bool, packCw 16 (pseudoFLIP b) = 0x007FE0000 + b.toNat ∧ packCw 16 (pseudoPASS b) = b.toNat)

/-! ### SequenceEngine (spec/40_sequence_engine.md) -/

/-- Rule R50. -/
def Obligations.NextBitPriority : Prop :=
  (∀ fl lt fb : Bool, nextBit true fl lt fb = true) ∧
  (∀ lt fb : Bool, nextBit false true lt fb = false) ∧
  (∀ fb : Bool, nextBit false false true fb = !fb) ∧
  (∀ fb : Bool, nextBit false false false fb = fb)

/-- Rule R51. -/
def Obligations.RotateIsCircular : Prop :=
  (∀ r : Register, (rotl8 r).toNat = ((r.toNat <<< 1) ||| (r.toNat >>> 7)) &&& 0xFF ∧
    (∀ i, 1 ≤ i → i ≤ 7 → (rotl8 r).getLsbD i = r.getLsbD (i - 1)) ∧
    (rotl8 r).getLsbD 0 = r.getLsbD 7 ∧
    onesCount (rotl8 r) = onesCount r ∧
    rotl8^[8] r = r) ∧
  rotl8 0x00#8 = 0x00#8 ∧ rotl8 0xFF#8 = 0xFF#8 ∧ rotl8 0x80#8 = 0x01#8 ∧ rotl8 0x01#8 = 0x02#8 ∧
  rotl8 0xA5#8 = 0x4B#8

/-- Rule R52, the adopted commit step. -/
def Obligations.CommitReplacesTheLowBit : Prop :=
  (∀ (rot : Register) (nb : Bool),
    (commit rot nb).toNat = (rot.toNat &&& 0xFE) ||| nb.toNat ∧
    (commit rot nb).getLsbD 0 = nb ∧
    (∀ i, 1 ≤ i → i ≤ 7 → (commit rot nb).getLsbD i = rot.getLsbD i) ∧
    commit rot (rot.getLsbD 0) = rot) ∧
  commit 0xFF#8 false = 0xFE#8 ∧ commit 0x00#8 true = 0x01#8

/-- Rule R58, the laws of `Step`, with rule R53's closed form `{r[6:0], nb}`. -/
def Obligations.StepLaws : Prop :=
  ∀ (r : Register) (fh fl : Bool) (thr rnd : Sample) (fb : Bool),
    seqStep r fh fl thr rnd fb =
      r.extractLsb' 0 7 ++ BitVec.ofBool (nextBit fh fl (decide (rnd.toNat < thr.toNat)) fb) ∧
    (∀ i, 1 ≤ i → i ≤ 7 → (seqStep r fh fl thr rnd fb).getLsbD i = r.getLsbD (i - 1)) ∧
    (seqStep r fh fl thr rnd fb).getLsbD 0 = nextBit fh fl (comparator rnd thr) fb ∧
    (seqStep r fh fl thr rnd fb).toNat ≤ 255 ∧
    (∀ b : Bool, seqStep (withBit7 b r) fh fl thr rnd fb = seqStep r fh fl thr rnd fb) ∧
    (∀ thr' rnd' : Sample, comparator rnd' thr' = comparator rnd thr ∨ fh = true ∨ fl = true →
      seqStep r fh fl thr' rnd' fb = seqStep r fh fl thr rnd fb)

/-- Rule R54.  The result is the whole next state: only `R` differs, so no flag, no exception and no other effect. -/
def Obligations.SethiShiftsInOne : Prop :=
  (∀ w : SelectWord, w &&& 0b1000#4 = 0b1000#4 ↔ ∃ fl lt fb, decode (.sel w) = .sethi fl lt fb) ∧
  (∀ (s : State) (fl lt fb : Bool),
    exec (.sethi fl lt fb) s = .next { s with R := s.R.extractLsb' 0 7 ++ 1#1 } ∧
    exec (.sethi fl lt fb) s = .next { s with R := (rotl8 s.R &&& 0xFE#8) ||| 1#8 }) ∧
  (∀ (r : Register) (fl : Bool) (thr rnd : Sample) (fb : Bool),
    seqStep r true fl thr rnd fb = r.extractLsb' 0 7 ++ 1#1 ∧ (seqStep r true fl thr rnd fb).getLsbD 0 = true) ∧
  (∀ (fl : Bool) (thr rnd : Sample) (fb : Bool),
    seqStep 0xFF#8 true fl thr rnd fb = 0xFF#8 ∧ seqStep 0x00#8 true fl thr rnd fb = 0x01#8)

/-- Rule R55.  As for SETHI, the result is the whole next state. -/
def Obligations.SetloShiftsInZero : Prop :=
  (∀ w : SelectWord, w &&& 0b1100#4 = 0b0100#4 ↔ ∃ lt fb, decode (.sel w) = .setlo lt fb) ∧
  (∀ (s : State) (lt fb : Bool),
    exec (.setlo lt fb) s = .next { s with R := s.R.extractLsb' 0 7 ++ 0#1 } ∧
    exec (.setlo lt fb) s = .next { s with R := rotl8 s.R &&& 0xFE#8 } ∧
    exec (.setlo lt fb) s = .next { s with R := s.R <<< 1 }) ∧
  (∀ (r : Register) (thr rnd : Sample) (fb : Bool),
    (seqStep r false true thr rnd fb).getLsbD 0 = false ∧
    (fun x => seqStep x false true thr rnd fb)^[8] r = 0x00#8) ∧
  (∀ (thr rnd : Sample) (fb : Bool),
    seqStep 0x00#8 false true thr rnd fb = 0x00#8 ∧ seqStep 0x80#8 false true thr rnd fb = 0x00#8 ∧
    seqStep 0xFF#8 false true thr rnd fb = 0xFE#8)

/-- Rule R56.  As for SETHI, the result is the whole next state. -/
def Obligations.FlipShiftsInTheComplement : Prop :=
  (∀ w : SelectWord, w &&& 0b1110#4 = 0b0010#4 ↔ ∃ fb, decode (.sel w) = .flip fb) ∧
  (∀ (s : State) (fb : Bool),
    exec (.flip fb) s = .next { s with R := s.R.extractLsb' 0 7 ++ BitVec.ofBool (!fb) }) ∧
  (∀ (r : Register) (thr rnd : Sample) (fb : Bool), rnd.toNat < thr.toNat →
    (seqStep r false false thr rnd fb).getLsbD 0 = !fb ∧
    seqStep r false false thr rnd (r.getLsbD 7) = rotl8 r ^^^ 0x01#8 ∧
    (r.getLsbD 7 = false → onesCount (seqStep r false false thr rnd (r.getLsbD 7)) = onesCount r + 1) ∧
    (r.getLsbD 7 = true → onesCount (seqStep r false false thr rnd (r.getLsbD 7)) + 1 = onesCount r)) ∧
  (∀ (st : Straps) (r : Register) (cw : ControlWord) (fb : Bool), sat10 (sampleThreshold st cw) = 0#10 →
    decodeSel (assembleSelect st r cw) ≠ .flip fb) ∧
  seqStep 0x00#8 false false 1#10 0#10 false = 0x01#8 ∧ seqStep 0xFF#8 false false 1#10 0#10 true = 0xFE#8 ∧
  seqStep 0xA5#8 false false 512#10 100#10 true = 0x4A#8

/-- Rule R57.  As for SETHI, the result is the whole next state. -/
def Obligations.PassShiftsInTheFeedback : Prop :=
  (∀ w : SelectWord, w &&& 0b1110#4 = 0b0000#4 ↔ ∃ fb, decode (.sel w) = .pass fb) ∧
  (∀ (s : State) (fb : Bool),
    exec (.pass fb) s = .next { s with R := s.R.extractLsb' 0 7 ++ BitVec.ofBool fb }) ∧
  (∀ (r : Register) (thr rnd : Sample) (fb : Bool), thr.toNat ≤ rnd.toNat →
    (seqStep r false false thr rnd fb).getLsbD 0 = fb ∧
    seqStep r false false thr rnd (r.getLsbD 7) = rotl8 r) ∧
  (∀ (st : Straps) (r : Register) (cw : ControlWord), cw.fh = false → cw.fl = false →
    (sat10 (sampleThreshold st cw) = 0#10 ∨ sat10 (sampleRandom st cw) = sat10 (sampleThreshold st cw)) →
    ∃ fb, decodeSel (assembleSelect st r cw) = .pass fb) ∧
  seqStep 0x4A#8 false false 512#10 900#10 false = 0x94#8

/-- Rule R59 on the machine: what a recognised edge writes with `FB_SEL = INT`, arm by arm; PASS keeps the number of 1
bits, and eight of them return the Register. -/
def Obligations.InternalFeedbackEdges : Prop :=
  (∀ (s t : State) (cw : ControlWord), s.straps.fbSel = .int → s.recognises = true → edge cw s = .next t →
    (cw.fh = true → t.R = rotl8 s.R ||| 0x01#8) ∧
    (cw.fh = false → cw.fl = true → t.R = rotl8 s.R &&& 0xFE#8) ∧
    (cw.fh = false → cw.fl = false → comparatorOf s.straps cw = true → t.R = rotl8 s.R ^^^ 0x01#8) ∧
    (cw.fh = false → cw.fl = false → comparatorOf s.straps cw = false →
      t.R = rotl8 s.R ∧ onesCount t.R = onesCount s.R)) ∧
  (∀ (s : State) (cws : List ControlWord), s.straps.fbSel = .int → s.straps.gateEvents = false → cws.length = 8 →
    (∀ cw ∈ cws, cw.fh = false ∧ cw.fl = false ∧ comparatorOf s.straps cw = false) →
    ∃ t : State, runFor 8 { s with stimulus := cws.map .edge } = .next t ∧ t.R = s.R)

/-- spec/95_test_vectors.md section 2.4's repetition laws on the machine, from any state with internal feedback and
ungated edges: eight FLIP statements complement the Register, eight SETHI fill it, eight SETLO clear it. -/
def Obligations.EightEdgeLaws : Prop :=
  ∀ s : State, s.straps.legal = true → s.straps.fbSel = .int → s.straps.gateEvents = false →
    (∃ t : State, runFor 8
      { s with stimulus := List.replicate 8 (.edge (pseudoFLIP false)) } = .next t ∧ t.R = ~~~ s.R) ∧
    (∃ t : State, runFor 8
      { s with stimulus := List.replicate 8 (.edge pseudoSETHI) } = .next t ∧ t.R = 0xFF#8) ∧
    (∃ t : State, runFor 8
      { s with stimulus := List.replicate 8 (.edge pseudoSETLO) } = .next t ∧ t.R = 0x00#8)

/-- The frame of the four arms (rules R14, R17, R54 to R57): the Register's bits 6..0 move up one place, and `busy`, the
straps, the event's code, the events to come and every observation keep their values. -/
def Obligations.ArmsWriteOnlyR : Prop :=
  ∀ (w : SelectWord) (s t : State), exec (decode (.sel w)) s = .next t →
    (∀ i, 1 ≤ i → i ≤ 7 → t.R.getLsbD i = s.R.getLsbD (i - 1)) ∧
    t.busy = s.busy ∧ t.straps = s.straps ∧ t.encResult = s.encResult ∧ t.stimulus = s.stimulus ∧
    t.dacTrace = s.dacTrace ∧ t.sent = s.sent ∧ t.sampleCount = s.sampleCount

/-! ### VoltageEncoder (spec/41_voltage_encoder.md) -/

/-- ENCODE on the machine: in every state it answers a next state in which the event's code is the clamped scale of the
operand and nothing else differs.  That the code stands in `encResult` is the model's own (notes/assumptions/3.md). -/
def Obligations.EncodeGivesTheCode : Prop :=
  ∀ (s : State) (r : Register), ∃ c : Code,
    (c.toNat : Int) = max 0 (min 4095 (s.straps.encOutLo +
      (r.toNat * (s.straps.encOutHi - s.straps.encOutLo)) / s.straps.encInSpan.value)) ∧
    exec (.encode r) s = .next { s with encResult := some c }

/-- Rule R64: every operand selects ENCODE, the code is the clamped scale, no state of the block is written and nothing
is sent; the corner cases and the example of the rule. -/
def Obligations.EncodeIsTheClampedScale : Prop :=
  (∀ r : Register, decode (.enc r) = .encode r) ∧
  (∀ (st : Straps) (r : Register), ((voltageCode st r).toNat : Int) = clamp12 (scale st r)) ∧
  (∀ (s : State) (r : Register), ∃ t, exec (.encode r) s = .next t ∧
    t.R = s.R ∧ t.busy = s.busy ∧ t.straps = s.straps ∧ t.stimulus = s.stimulus ∧ t.dacTrace = s.dacTrace ∧
    t.sent = s.sent ∧ t.sampleCount = s.sampleCount) ∧
  (∀ st : Straps,
    voltageCode st.encA 0#8 = 0#12 ∧ voltageCode st.encA 255#8 = 4095#12 ∧ voltageCode st.encA 1#8 = 16#12 ∧
    voltageCode st.encA 16#8 = 256#12 ∧ voltageCode st.encA 17#8 = 273#12 ∧ voltageCode st.encA 128#8 = 2055#12 ∧
    voltageCode st.encA 254#8 = 4078#12 ∧ voltageCode st.encA 0xB2#8 = 2858#12)

/-- Rule R62: for legal straps the quotient is the floor of rule R10's `div`, the line starts at `ENC_OUT_LO` and would
reach `ENC_OUT_HI` at `ENC_IN_SPAN`; the dividend is never negative. -/
def Obligations.ScaleIsTheFlooredLine : Prop :=
  ∀ (st : Straps) (r : Register), st.legal = true →
    0 ≤ (r.toNat : Int) * (st.encOutHi - st.encOutLo) ∧
    (scale st r - st.encOutLo) * st.encInSpan.value ≤ r.toNat * (st.encOutHi - st.encOutLo) ∧
    r.toNat * (st.encOutHi - st.encOutLo) < (scale st r - st.encOutLo + 1) * st.encInSpan.value ∧
    scale st 0#8 = st.encOutLo ∧
    (st.encInSpan = .s255 → scale st 255#8 = st.encOutHi)

/-- The clamp of rule R63: its value and corner cases; it changes nothing when the output range lies in 0..4095, and it
acts at the ends of a range that does not (for the upper end with the span 255). -/
def Obligations.ClampActsOnlyOutside : Prop :=
  (∀ v : Int, clamp12 v = max 0 (min 4095 v) ∧ 0 ≤ clamp12 v ∧ clamp12 v ≤ 4095) ∧
  clamp12 (-1) = 0 ∧ clamp12 0 = 0 ∧ clamp12 4095 = 4095 ∧ clamp12 4096 = 4095 ∧
  (∀ (st : Straps) (r : Register), st.legal = true → 0 ≤ st.encOutLo → st.encOutHi ≤ 4095 →
    clamp12 (scale st r) = scale st r) ∧
  (∀ st : Straps, st.encOutLo < 0 → voltageCode st 0#8 = 0#12) ∧
  (∀ st : Straps, st.encInSpan = .s255 → 4095 < st.encOutHi → voltageCode st 255#8 = 4095#12)

/-- Rule R66: range, monotonicity, purity, totality, the separation of codes in ENC-A, ENC-B, ENC-C, and that a clamp
which acts merges values, so that `Encode` is not injective for every admitted configuration. -/
def Obligations.EncodeLaws : Prop :=
  (∀ (st : Straps) (r : Register), (voltageCode st r).toNat ≤ 4095) ∧
  (∀ (st : Straps) (r r' : Register), st.legal = true → r.toNat ≤ r'.toNat →
    (voltageCode st r).toNat ≤ (voltageCode st r').toNat) ∧
  (∀ (s : State) (r : Register), ∃ t, exec (.encode r) s = .next t ∧ exec (.encode r) t = .next t) ∧
  (∀ (st : Straps) (r r' : Register), r.toNat < r'.toNat →
    (voltageCode st.encA r).toNat + 15 ≤ (voltageCode st.encA r').toNat ∧
    (voltageCode st.encB r).toNat + 15 ≤ (voltageCode st.encB r').toNat ∧
    (voltageCode st.encC r).toNat + 15 ≤ (voltageCode st.encC r').toNat) ∧
  (∃ (st : Straps) (r r' : Register), st.legal = true ∧ r ≠ r' ∧ clamp12 (scale st r) ≠ scale st r ∧
    voltageCode st r = voltageCode st r')

/-- Rule R67: the closed forms of the three named configurations, for every register value. -/
def Obligations.EncodeClosedForms : Prop :=
  (∀ (st : Straps) (r : Register),
    (voltageCode st.encA r).toNat = 16 * r.toNat + r.toNat / 17 ∧
    (voltageCode st.encA r).toNat = r.toNat * 4095 / 255 ∧
    (voltageCode st.encB r).toNat = (if r.toNat = 0 then 0 else 16 * r.toNat - 1) ∧
    (voltageCode st.encB r).toNat = r.toNat * 4095 / 256 ∧
    (voltageCode st.encB r).toNat ≠ 4095 ∧
    (voltageCode st.encC r).toNat = 15 + r.toNat * 4064 / 255) ∧
  (∀ (st : Straps) (r : Register), r.toNat < 255 →
    (voltageCode st.encA (r + 1)).toNat = (voltageCode st.encA r).toNat + (if (r.toNat + 1) % 17 = 0 then 17 else 16) ∧
    (voltageCode st.encB (r + 1)).toNat = (voltageCode st.encB r).toNat + (if r.toNat = 0 then 15 else 16) ∧
    ((voltageCode st.encC (r + 1)).toNat = (voltageCode st.encC r).toNat + 15 ∨
      (voltageCode st.encC (r + 1)).toNat = (voltageCode st.encC r).toNat + 16)) ∧
  (∀ st : Straps,
    voltageCode st.encA 0#8 = 0#12 ∧ voltageCode st.encA 255#8 = 4095#12 ∧
    voltageCode st.encB 0#8 = 0#12 ∧ voltageCode st.encB 255#8 = 4079#12 ∧
    voltageCode st.encC 0#8 = 15#12 ∧ voltageCode st.encC 255#8 = 4079#12 ∧
    voltageCode st.encA 1#8 = 16#12 ∧ voltageCode st.encB 1#8 = 15#12 ∧ voltageCode st.encC 1#8 = 30#12 ∧
    voltageCode st.encA 254#8 = 4078#12 ∧ voltageCode st.encB 254#8 = 4063#12 ∧ voltageCode st.encC 254#8 = 4063#12)

/-- Rule R68: the widths that make rule R62's arithmetic exact. -/
def Obligations.ScalerWidths : Prop :=
  (∀ (st : Straps) (r : Register), st.legal = true →
    (r.toNat : Int) * (st.encOutHi - st.encOutLo) ≤ 16711425 ∧ (16711425 : Int) < 2 ^ 24 ∧
    0 ≤ scale st r - st.encOutLo ∧ scale st r - st.encOutLo ≤ st.encOutHi - st.encOutLo ∧
    st.encOutHi - st.encOutLo < 2 ^ 16 ∧
    st.encOutLo ≤ scale st r ∧ scale st r ≤ st.encOutHi ∧ -32768 ≤ scale st r ∧ scale st r ≤ 32767) ∧
  (∀ (st : Straps) (r : Register),
    (r.toNat : Int) * (st.encA.encOutHi - st.encA.encOutLo) ≤ 1044225 ∧
    (r.toNat : Int) * (st.encB.encOutHi - st.encB.encOutLo) ≤ 1044225 ∧ (1044225 : Int) < 2 ^ 20 ∧
    (16 < r.toNat → 2 ^ 16 ≤ (r.toNat : Int) * (st.encA.encOutHi - st.encA.encOutLo) ∧
      2 ^ 16 ≤ (r.toNat : Int) * (st.encB.encOutHi - st.encB.encOutLo)))

/-- Rule R65: the word passed to `DacSend`, and that a recognised edge passes that word. -/
def Obligations.WordCarriesTheCode : Prop :=
  (∀ c : Code, (word16 c).extractLsb' 0 12 = c ∧ (word16 c).extractLsb' 12 4 = 0#4 ∧ (word16 c).toNat ≤ 4095) ∧
  (∀ (s t : State) (cw : ControlWord), s.recognises = true → edge cw s = .next t →
    t.dacTrace = s.dacTrace ++ [word16 (voltageCode s.straps t.R)]) ∧
  word16 2858#12 = 0x0B2A#16

/-! ### Events (spec/42_event_cycle.md, spec/70_reset_and_hazards.md) -/

/-- A step runs the operations the decoder reads: on a recognised edge whose select word decodes to `i`, the step is
`exec i` on the state that has taken the edge and its samples, then `exec` of ENCODE of the Register just written, then
the send and, when gating, `busy`. -/
def Obligations.StepRunsTheDecodedWords : Prop :=
  ∀ (s : State) (cw : ControlWord) (es : List Event) (i : Instr),
    s.stimulus = .edge cw :: es → s.recognises = true → decode (.sel (assembleSelect s.straps s.R cw)) = i →
    step s = andThen (exec i { s with stimulus := es, sampleCount := s.sampleCount + 1 }) fun t =>
      andThen (exec (.encode t.R) t) fun u => .next u.sendCode.markBusy

/-- Rule R70: a recognised edge whose samples fit their ports always completes.  It writes `R` with `Step` of the clamped
samples and the old Register, sends one word, the code of the new value, sets `busy` when gating, and leaves the straps. -/
def Obligations.RecognisedEdgeEffect : Prop :=
  ∀ (s : State) (cw : ControlWord) (es : List Event),
    s.stimulus = .edge cw :: es → cw.fits s.straps.sampleW = true → (s.straps.gateEvents = false ∨ s.busy = false) →
    let fb := if s.straps.fbSel = .int then s.R.getLsbD 7 else cw.fbExt
    let new := seqStep s.R cw.fh cw.fl (sat10 cw.thrRaw) (sat10 cw.rndRaw) fb
    ∃ t, step s = .next t ∧ t.R = new ∧ t.dacTrace = s.dacTrace ++ [word16 (voltageCode s.straps new)] ∧
      t.busy = (if s.straps.gateEvents then true else s.busy) ∧ t.straps = s.straps

/-- Rule R71: a dropped edge leaves everything but the list of events to come, and is not remembered. -/
def Obligations.DroppedEdgeHasNoEffect : Prop :=
  (∀ (s : State) (cw : ControlWord) (es : List Event),
    s.stimulus = .edge cw :: es → s.straps.gateEvents = true → s.busy = true →
    step s = .next { s with stimulus := es }) ∧
  (∀ s : State, s.straps.gateEvents = false → s.recognises = true)

/-- Rule R72, with the run its last corner case describes: while `busy` stays up, any number of edges changes nothing
but the list of events to come. -/
def Obligations.DoneClearsBusy : Prop :=
  (∀ (s : State) (es : List Event), s.stimulus = .done :: es →
    step s = .next { s with stimulus := es, busy := if s.straps.gateEvents then false else s.busy }) ∧
  (∀ (s : State) (es : List Event), s.stimulus = .done :: es → s.busy = false →
    step s = .next { s with stimulus := es }) ∧
  (∀ s : State, s.straps.gateEvents = true → s.done.recognises = true ∧ s.done.R = s.R) ∧
  (∀ (s : State) (cws : List ControlWord), s.straps.gateEvents = true → s.busy = true →
    runFor cws.length { s with stimulus := cws.map .edge } = .next { s with stimulus := [] })

/-- Rule R87 in every state, `busy` up or down: the whole effect of `Reset`, its outputs, its idempotence, and the late
`Done` after it.  That `sent` keeps its words is the model's observation of "does not call back any word". -/
def Obligations.ResetEventEffect : Prop :=
  (∀ (s : State) (es : List Event), s.stimulus = .reset :: es → s.encResult = none →
    step s = .next { s with stimulus := es, R := s.straps.seed, busy := false, dacTrace := [] }) ∧
  (∀ s : State,
    s.resetEvent.regQ = s.straps.seed ∧ s.resetEvent.codeOut = voltageCode s.straps s.straps.seed ∧
    s.resetEvent.dacTrace = [] ∧ s.resetEvent.sent = s.sent ∧ s.resetEvent.sampleCount = s.sampleCount ∧
    s.resetEvent.recognises = true ∧ s.resetEvent.resetEvent = s.resetEvent ∧ s.resetEvent.done = s.resetEvent)

/-- Rule R22 for every choice of straps. -/
def Obligations.StateAfterReset : Prop :=
  ∀ st : Straps,
    (State.resetOf st).R = st.seed ∧ (State.resetOf st).busy = false ∧ (State.resetOf st).straps = st ∧
    (State.resetOf st).regQ = st.seed ∧ (State.resetOf st).codeOut = voltageCode st st.seed ∧
    (State.resetOf st).dacTrace = [] ∧ (State.resetOf st).recognises = true

/-- Rule R74: with no event to deliver a step changes nothing, and any number of such steps changes nothing. -/
def Obligations.IdleHoldsTheState : Prop :=
  ∀ (s : State) (k : Nat), s.stimulus = [] → runFor k s = .next s

/-- Rule R76: no operation faults or is refused in any state, no event is, and there is no fault to name. -/
def Obligations.NothingFaults : Prop :=
  (∀ (i : Instr) (s : State), ∃ t, exec i s = .next t) ∧ (∀ s : State, ∃ t, step s = .next t) ∧ (Fault → False)

/-- Rule R81: a `Reset` discards what coincides with it; a coinciding `Edge` is evaluated before the `Done`, so under
gating it is dropped against `busy = 1` and `busy` ends at 0, or it is recognised and the `Done` clears `busy` again. -/
def Obligations.CoincidenceOrder : Prop :=
  (∀ (s : State) (o : Occurrence), o.rst = true → s.encResult = none →
    step (s.present o) = .next { s with R := s.straps.seed, busy := false, dacTrace := [] }) ∧
  (∀ (s : State) (cw : ControlWord), s.straps.gateEvents = true → s.busy = true →
    andThen (step (s.present { rst := false, evt := some cw, dacDone := true })) step =
      .next { s with busy := false }) ∧
  (∀ (s : State) (cw : ControlWord), s.straps.gateEvents = true → s.busy = false → s.encResult = none →
    ∃ u t, step (s.present { rst := false, evt := some cw, dacDone := true }) = .next u ∧ u.busy = true ∧
      step u = .next t ∧ t = { u with busy := false, stimulus := s.stimulus } ∧
      t.R = edgeValue s.straps s.R cw)

/-! ### Whole-machine rules -/

/-- Rule R14: `R` is written by exactly two things. -/
def Obligations.OnlyResetAndRecognisedEdgeWriteR : Prop :=
  ∀ s t : State, step s = .next t → t.R ≠ s.R →
    (∃ es, s.stimulus = .reset :: es ∧ t.R = s.straps.seed) ∨
    (∃ cw es, s.stimulus = .edge cw :: es ∧ s.recognises = true ∧ t.R = edgeValue s.straps s.R cw)

/-- Rule R18: what moves `busy`.  It rises only by a recognised edge under gating and falls only by `Done` under gating or
by `Reset`; without gating a state with `busy` down keeps it down and recognises every edge. -/
def Obligations.OnlyGatedEventsMoveBusy : Prop :=
  (∀ s t : State, step s = .next t → s.busy = false → t.busy = true →
    s.straps.gateEvents = true ∧ ∃ cw es, s.stimulus = .edge cw :: es) ∧
  (∀ s t : State, step s = .next t → s.busy = true → t.busy = false →
    (s.straps.gateEvents = true ∧ ∃ es, s.stimulus = .done :: es) ∨ ∃ es, s.stimulus = .reset :: es) ∧
  (∀ s t : State, step s = .next t → s.straps.gateEvents = false → s.busy = false →
    t.busy = false ∧ t.recognises = true)

/-- Rules R19, R33, R73: a step never changes the straps; it takes one event; it samples and sends once, together, for a
recognised edge, and neither samples nor sends for anything else; no word given to the driver is taken back. -/
def Obligations.OneSendPerRecognisedEdge : Prop :=
  ∀ s t : State, s.encResult = none → step s = .next t →
    t.straps = s.straps ∧ t.encResult = none ∧ t.stimulus = s.stimulus.tail ∧
    (((∃ cw es, s.stimulus = .edge cw :: es) ∧ s.recognises = true ∧ t.sampleCount = s.sampleCount + 1 ∧
        t.sent = s.sent ++ [word16 t.codeOut] ∧ t.dacTrace = s.dacTrace ++ [word16 t.codeOut]) ∨
      (¬ ((∃ cw es, s.stimulus = .edge cw :: es) ∧ s.recognises = true) ∧ t.sampleCount = s.sampleCount ∧
        t.sent = s.sent ∧ (t.dacTrace = s.dacTrace ∨ ∃ es, s.stimulus = .reset :: es ∧ t.dacTrace = [])))

/-- Rule R39: two control words that assemble to the same select word have the same effect; rule R23: with internal
feedback `fb_ext` has none. -/
def Obligations.SelectWordCarriesEverything : Prop :=
  (∀ (s : State) (cw cw' : ControlWord) (es : List Event),
    assembleSelect s.straps s.R cw = assembleSelect s.straps s.R cw' →
    step { s with stimulus := .edge cw :: es } = step { s with stimulus := .edge cw' :: es }) ∧
  (∀ (s : State) (cw : ControlWord) (b : Bool) (es : List Event), s.straps.fbSel = .int →
    step { s with stimulus := .edge { cw with fbExt := b } :: es } = step { s with stimulus := .edge cw :: es }) ∧
  (∀ (s : State) (cw cw' : ControlWord) (es : List Event), cw.fh = true → cw'.fh = true →
    step { s with stimulus := .edge cw :: es } = step { s with stimulus := .edge cw' :: es })

/-- Rules R16 and R29: the observations are never read.  Two states that differ only in the DAC trace, the words sent and
the count of samples take the same step in everything else, and append the same words. -/
def Obligations.ObservationsAreNeverRead : Prop :=
  ∀ (s t : State) (trace sent : List DacWord) (count : Nat), step s = .next t →
    ∃ u, step { s with dacTrace := trace, sent := sent, sampleCount := count } = .next u ∧
      u.R = t.R ∧ u.busy = t.busy ∧ u.straps = t.straps ∧ u.encResult = t.encResult ∧ u.stimulus = t.stimulus ∧
      (∀ ws, t.sent = s.sent ++ ws → u.sent = sent ++ ws)

/-- A word placed for the next step is run by it, for every state with legal straps: a select word's arm writes what
`exec` of it writes, and ENCODE's operand is the value the edge commits.  How a word is placed is the model's own
(notes/assumptions/4.md). -/
def Obligations.PlacedWordIsRun : Prop :=
  (∀ (s : State) (w : SelectWord), s.straps.legal = true →
    ∃ u t, exec (decode (.sel w)) (s.withWordNext (.sel w)) = .next u ∧
      step (s.withWordNext (.sel w)) = .next t ∧ t.R = u.R) ∧
  (∀ (s : State) (r : Register), s.straps.legal = true → s.encResult = none →
    ∃ u c t, exec (decode (.enc r)) (s.withWordNext (.enc r)) = .next u ∧ u.encResult = some c ∧
      step (s.withWordNext (.enc r)) = .next t ∧ t.R = r ∧ t.sent = s.sent ++ [word16 c])

/-! ### Invariants and runs -/

/-- The invariant holds after reset, for every legal choice of straps and every list of events whose samples fit, and in
the model's own reset state. -/
def Obligations.ResetStateMeetsTheInvariant : Prop :=
  (∀ (st : Straps) (es : List Event), st.legal = true → (∀ e ∈ es, e.fits st.sampleW = true) →
    { State.resetOf st with stimulus := es }.Inv) ∧
  State.reset.Inv

/-- Every step keeps the invariant: legal straps, `busy` constant without gating, no code stored between events, the last
word of the DAC trace is the code of the Register as it stands, the trace is the latest part of what was sent, every word
is at most 4095, one send for each sampling. -/
def Obligations.EveryStepKeepsTheInvariant : Prop :=
  ∀ s t : State, s.Inv → step s = .next t → t.Inv

/-- From every state that meets the invariant, those after reset among them, a run of any length completes in a state
that meets it. -/
def Obligations.RunsFromTheInvariantAreSafe : Prop :=
  ∀ s : State, s.Inv → SafeRun s

/-- One step of rule R73's recurrence, from every state and not only from those a run reaches: a state that agrees with a
view of a run steps, on any event, to a state that agrees with the view after that event, under the same straps. -/
def Obligations.StepFollowsTheRecurrence : Prop :=
  ∀ (s : State) (v : RunView) (e : Event) (es : List Event), s.stimulus = e :: es → s.Agrees v →
    ∃ t, step s = .next t ∧ t.Agrees (v.after s.straps e) ∧ t.straps = s.straps ∧ t.stimulus = es

/-- Rule R96, for every finite or infinite run.  Any state is brought to the start of a run by the `Reset` a run begins
with; the start has `R = SEED`, `busy = 0`, an empty DAC trace, the straps, and nothing in flight; after any number of
events the machine is in a next state whose `R`, `busy` and DAC trace are those of the events so far, so it never
terminates by itself; if `busy` is up there, a send is outstanding, that is, an edge was recognised and no `Done` and no
`Reset` has come since; and a finite run ends in the state after its last event. -/
def Obligations.RunsAreFiniteOrInfinite : Prop :=
  (∀ s : State, ∃ t, deliver .reset s = .next t ∧ t.straps = s.straps ∧ t.R = (State.resetOf s.straps).R ∧
    t.busy = (State.resetOf s.straps).busy ∧ t.dacTrace = (State.resetOf s.straps).dacTrace ∧ t.encResult = none) ∧
  ∀ r : Run,
    (∃ s, r.after 0 = .next s ∧ s.R = r.straps.seed ∧ s.busy = false ∧ s.dacTrace = [] ∧ s.straps = r.straps ∧
      s.encResult = none) ∧
    (∀ k, ∃ t, r.after k = .next t ∧ t.Agrees (RunView.ofRun r.straps (r.events.take k)) ∧ t.straps = r.straps ∧
      (t.busy = true → r.straps.gateEvents = true ∧ ∃ before cw since,
        r.events.take k = before ++ .edge cw :: since ∧ (RunView.ofRun r.straps before).busy = false ∧
        ∀ e ∈ since, ∃ cw', e = .edge cw')) ∧
    (∀ es, r.events = .finite es → ∀ k, es.length ≤ k → r.after k = r.after es.length)

/-- Rule R96's infinite runs: for every choice of straps and every infinite sequence of events there is exactly one
infinite run; its first `k` events are the machine's run of `k` steps on them; and with legal straps and samples that fit
it is safe at every point. -/
def Obligations.EveryInfiniteRunExists : Prop :=
  ∀ (st : Straps) (es : Nat → Event), ∃ states : Nat → State,
    IsInfiniteRun st es states ∧
    (∀ states', IsInfiniteRun st es states' → states' = states) ∧
    (∀ k, runFor k { State.resetOf st with stimulus := (List.range k).map es } = .next (states k) ∧
      (Run.mk st (.infinite es)).after k = .next (states k)) ∧
    (st.legal = true → (∀ k, (es k).fits st.sampleW = true) → ∀ k, (states k).Inv)

/-- Rule R73: for every choice of straps and every list of events, the run from a reset reaches the Register, the `busy`
and the DAC trace that the rule's recurrence gives, the k-th word being the code of the k-th value written. -/
def Obligations.TraceFollowsTheRecurrence : Prop :=
  ∀ (st : Straps) (es : List Event), ∃ t : State,
    runFor es.length { State.resetOf st with stimulus := es } = .next t ∧
    t.R = (RunView.ofRun st es).R ∧ t.busy = (RunView.ofRun st es).busy ∧
    t.dacTrace = (RunView.ofRun st es).written.map (fun r => word16 (voltageCode st r)) ∧
    t.straps = st ∧ t.stimulus = []

/-- Rule R94's premises give its conclusion: when every send is answered before the next edge, or when edges are not
gated, the n-th edge produces the n-th word. -/
def Obligations.EveryAnsweredEdgeSends : Prop :=
  (∀ (s : State) (cws : List ControlWord), s.straps.gateEvents = true → s.busy = false → s.encResult = none →
    ∃ t : State, runFor (2 * cws.length)
        { s with stimulus := cws.flatMap (fun cw => [.edge cw, .done]) } = .next t ∧
      t.dacTrace.length = s.dacTrace.length + cws.length ∧ t.busy = false) ∧
  (∀ (s : State) (cws : List ControlWord), s.straps.gateEvents = false → s.encResult = none →
    ∃ t : State, runFor cws.length { s with stimulus := cws.map .edge } = .next t ∧
      t.dacTrace.length = s.dacTrace.length + cws.length)
end

