-- ==== Sys2Proof/Laws/State.lean ====
section
/-! SUPPORT. Each field after each update of the state, so that no later proof unfolds a record update. -/

namespace Sys2Proof.Machine

/-! ### writeR -/

@[simp] theorem State.writeR_R (v : Register) (s : State) : (s.writeR v).R = v := rfl
@[simp] theorem State.writeR_busy (v : Register) (s : State) : (s.writeR v).busy = s.busy := rfl
@[simp] theorem State.writeR_straps (v : Register) (s : State) : (s.writeR v).straps = s.straps := rfl
@[simp] theorem State.writeR_encResult (v : Register) (s : State) : (s.writeR v).encResult = s.encResult := rfl
@[simp] theorem State.writeR_stimulus (v : Register) (s : State) : (s.writeR v).stimulus = s.stimulus := rfl
@[simp] theorem State.writeR_dacTrace (v : Register) (s : State) : (s.writeR v).dacTrace = s.dacTrace := rfl
@[simp] theorem State.writeR_sent (v : Register) (s : State) : (s.writeR v).sent = s.sent := rfl
@[simp] theorem State.writeR_sampleCount (v : Register) (s : State) : (s.writeR v).sampleCount = s.sampleCount := rfl

/-! ### setBusy -/

@[simp] theorem State.setBusy_R (b : Bool) (s : State) : (s.setBusy b).R = s.R := rfl
@[simp] theorem State.setBusy_busy (b : Bool) (s : State) : (s.setBusy b).busy = b := rfl
@[simp] theorem State.setBusy_straps (b : Bool) (s : State) : (s.setBusy b).straps = s.straps := rfl
@[simp] theorem State.setBusy_encResult (b : Bool) (s : State) : (s.setBusy b).encResult = s.encResult := rfl
@[simp] theorem State.setBusy_stimulus (b : Bool) (s : State) : (s.setBusy b).stimulus = s.stimulus := rfl
@[simp] theorem State.setBusy_dacTrace (b : Bool) (s : State) : (s.setBusy b).dacTrace = s.dacTrace := rfl
@[simp] theorem State.setBusy_sent (b : Bool) (s : State) : (s.setBusy b).sent = s.sent := rfl
@[simp] theorem State.setBusy_sampleCount (b : Bool) (s : State) : (s.setBusy b).sampleCount = s.sampleCount := rfl

/-! ### setEncResult -/

@[simp] theorem State.setEncResult_R (v : Code) (s : State) : (s.setEncResult v).R = s.R := rfl
@[simp] theorem State.setEncResult_busy (v : Code) (s : State) : (s.setEncResult v).busy = s.busy := rfl
@[simp] theorem State.setEncResult_straps (v : Code) (s : State) : (s.setEncResult v).straps = s.straps := rfl
@[simp] theorem State.setEncResult_encResult (v : Code) (s : State) : (s.setEncResult v).encResult = some v := rfl
@[simp] theorem State.setEncResult_stimulus (v : Code) (s : State) : (s.setEncResult v).stimulus = s.stimulus := rfl
@[simp] theorem State.setEncResult_dacTrace (v : Code) (s : State) : (s.setEncResult v).dacTrace = s.dacTrace := rfl
@[simp] theorem State.setEncResult_sent (v : Code) (s : State) : (s.setEncResult v).sent = s.sent := rfl
@[simp] theorem State.setEncResult_sampleCount (v : Code) (s : State) : (s.setEncResult v).sampleCount = s.sampleCount := rfl

/-! ### dropEncResult -/

@[simp] theorem State.dropEncResult_R (s : State) : s.dropEncResult.R = s.R := rfl
@[simp] theorem State.dropEncResult_busy (s : State) : s.dropEncResult.busy = s.busy := rfl
@[simp] theorem State.dropEncResult_straps (s : State) : s.dropEncResult.straps = s.straps := rfl
@[simp] theorem State.dropEncResult_encResult (s : State) : s.dropEncResult.encResult = none := rfl
@[simp] theorem State.dropEncResult_stimulus (s : State) : s.dropEncResult.stimulus = s.stimulus := rfl
@[simp] theorem State.dropEncResult_dacTrace (s : State) : s.dropEncResult.dacTrace = s.dacTrace := rfl
@[simp] theorem State.dropEncResult_sent (s : State) : s.dropEncResult.sent = s.sent := rfl
@[simp] theorem State.dropEncResult_sampleCount (s : State) : s.dropEncResult.sampleCount = s.sampleCount := rfl

/-! ### dacSend -/

@[simp] theorem State.dacSend_R (w : DacWord) (s : State) : (s.dacSend w).R = s.R := rfl
@[simp] theorem State.dacSend_busy (w : DacWord) (s : State) : (s.dacSend w).busy = s.busy := rfl
@[simp] theorem State.dacSend_straps (w : DacWord) (s : State) : (s.dacSend w).straps = s.straps := rfl
@[simp] theorem State.dacSend_encResult (w : DacWord) (s : State) : (s.dacSend w).encResult = s.encResult := rfl
@[simp] theorem State.dacSend_stimulus (w : DacWord) (s : State) : (s.dacSend w).stimulus = s.stimulus := rfl
@[simp] theorem State.dacSend_dacTrace (w : DacWord) (s : State) : (s.dacSend w).dacTrace = s.dacTrace ++ [w] := rfl
@[simp] theorem State.dacSend_sent (w : DacWord) (s : State) : (s.dacSend w).sent = s.sent ++ [w] := rfl
@[simp] theorem State.dacSend_sampleCount (w : DacWord) (s : State) : (s.dacSend w).sampleCount = s.sampleCount := rfl

/-! ### countSample -/

@[simp] theorem State.countSample_R (s : State) : s.countSample.R = s.R := rfl
@[simp] theorem State.countSample_busy (s : State) : s.countSample.busy = s.busy := rfl
@[simp] theorem State.countSample_straps (s : State) : s.countSample.straps = s.straps := rfl
@[simp] theorem State.countSample_encResult (s : State) : s.countSample.encResult = s.encResult := rfl
@[simp] theorem State.countSample_stimulus (s : State) : s.countSample.stimulus = s.stimulus := rfl
@[simp] theorem State.countSample_dacTrace (s : State) : s.countSample.dacTrace = s.dacTrace := rfl
@[simp] theorem State.countSample_sent (s : State) : s.countSample.sent = s.sent := rfl
@[simp] theorem State.countSample_sampleCount (s : State) : s.countSample.sampleCount = s.sampleCount + 1 := rfl

/-! ### popEvent -/

@[simp] theorem State.popEvent_R (s : State) : s.popEvent.R = s.R := rfl
@[simp] theorem State.popEvent_busy (s : State) : s.popEvent.busy = s.busy := rfl
@[simp] theorem State.popEvent_straps (s : State) : s.popEvent.straps = s.straps := rfl
@[simp] theorem State.popEvent_encResult (s : State) : s.popEvent.encResult = s.encResult := rfl
@[simp] theorem State.popEvent_stimulus (s : State) : s.popEvent.stimulus = s.stimulus.tail := rfl
@[simp] theorem State.popEvent_dacTrace (s : State) : s.popEvent.dacTrace = s.dacTrace := rfl
@[simp] theorem State.popEvent_sent (s : State) : s.popEvent.sent = s.sent := rfl
@[simp] theorem State.popEvent_sampleCount (s : State) : s.popEvent.sampleCount = s.sampleCount := rfl

/-! ### shiftIn -/

@[simp] theorem State.shiftIn_R (nb : Bool) (s : State) : (s.shiftIn nb).R = commit (rotl8 s.R) nb := rfl
@[simp] theorem State.shiftIn_busy (nb : Bool) (s : State) : (s.shiftIn nb).busy = s.busy := rfl
@[simp] theorem State.shiftIn_straps (nb : Bool) (s : State) : (s.shiftIn nb).straps = s.straps := rfl
@[simp] theorem State.shiftIn_encResult (nb : Bool) (s : State) : (s.shiftIn nb).encResult = s.encResult := rfl
@[simp] theorem State.shiftIn_stimulus (nb : Bool) (s : State) : (s.shiftIn nb).stimulus = s.stimulus := rfl
@[simp] theorem State.shiftIn_dacTrace (nb : Bool) (s : State) : (s.shiftIn nb).dacTrace = s.dacTrace := rfl
@[simp] theorem State.shiftIn_sent (nb : Bool) (s : State) : (s.shiftIn nb).sent = s.sent := rfl
@[simp] theorem State.shiftIn_sampleCount (nb : Bool) (s : State) : (s.shiftIn nb).sampleCount = s.sampleCount := rfl

/-! ### resetEvent -/

@[simp] theorem State.resetEvent_R (s : State) : s.resetEvent.R = s.straps.seed := rfl
@[simp] theorem State.resetEvent_busy (s : State) : s.resetEvent.busy = false := rfl
@[simp] theorem State.resetEvent_straps (s : State) : s.resetEvent.straps = s.straps := rfl
@[simp] theorem State.resetEvent_encResult (s : State) : s.resetEvent.encResult = none := rfl
@[simp] theorem State.resetEvent_stimulus (s : State) : s.resetEvent.stimulus = s.stimulus := rfl
@[simp] theorem State.resetEvent_dacTrace (s : State) : s.resetEvent.dacTrace = [] := rfl
@[simp] theorem State.resetEvent_sent (s : State) : s.resetEvent.sent = s.sent := rfl
@[simp] theorem State.resetEvent_sampleCount (s : State) : s.resetEvent.sampleCount = s.sampleCount := rfl

/-! ### resetOf -/

@[simp] theorem State.resetOf_R (st : Straps) : (State.resetOf st).R = st.seed := rfl
@[simp] theorem State.resetOf_busy (st : Straps) : (State.resetOf st).busy = false := rfl
@[simp] theorem State.resetOf_straps (st : Straps) : (State.resetOf st).straps = st := rfl
@[simp] theorem State.resetOf_encResult (st : Straps) : (State.resetOf st).encResult = none := rfl
@[simp] theorem State.resetOf_stimulus (st : Straps) : (State.resetOf st).stimulus = [] := rfl
@[simp] theorem State.resetOf_dacTrace (st : Straps) : (State.resetOf st).dacTrace = [] := rfl
@[simp] theorem State.resetOf_sent (st : Straps) : (State.resetOf st).sent = [] := rfl
@[simp] theorem State.resetOf_sampleCount (st : Straps) : (State.resetOf st).sampleCount = 0 := rfl

/-! ### The updates that look at the state first -/

@[simp] theorem State.markBusy_R (s : State) : s.markBusy.R = s.R := by
  unfold State.markBusy; split <;> rfl
@[simp] theorem State.markBusy_busy (s : State) : s.markBusy.busy = (s.straps.gateEvents || s.busy) := by
  unfold State.markBusy; cases s.straps.gateEvents <;> simp
@[simp] theorem State.markBusy_straps (s : State) : s.markBusy.straps = s.straps := by
  unfold State.markBusy; split <;> rfl
@[simp] theorem State.markBusy_encResult (s : State) : s.markBusy.encResult = s.encResult := by
  unfold State.markBusy; split <;> rfl
@[simp] theorem State.markBusy_stimulus (s : State) : s.markBusy.stimulus = s.stimulus := by
  unfold State.markBusy; split <;> rfl
@[simp] theorem State.markBusy_dacTrace (s : State) : s.markBusy.dacTrace = s.dacTrace := by
  unfold State.markBusy; split <;> rfl
@[simp] theorem State.markBusy_sent (s : State) : s.markBusy.sent = s.sent := by
  unfold State.markBusy; split <;> rfl
@[simp] theorem State.markBusy_sampleCount (s : State) : s.markBusy.sampleCount = s.sampleCount := by
  unfold State.markBusy; split <;> rfl

@[simp] theorem State.done_R (s : State) : s.done.R = s.R := by
  unfold State.done; split <;> rfl
@[simp] theorem State.done_busy (s : State) : s.done.busy = (s.busy && !s.straps.gateEvents) := by
  unfold State.done; cases s.straps.gateEvents <;> simp
@[simp] theorem State.done_straps (s : State) : s.done.straps = s.straps := by
  unfold State.done; split <;> rfl
@[simp] theorem State.done_encResult (s : State) : s.done.encResult = s.encResult := by
  unfold State.done; split <;> rfl
@[simp] theorem State.done_stimulus (s : State) : s.done.stimulus = s.stimulus := by
  unfold State.done; split <;> rfl
@[simp] theorem State.done_dacTrace (s : State) : s.done.dacTrace = s.dacTrace := by
  unfold State.done; split <;> rfl
@[simp] theorem State.done_sent (s : State) : s.done.sent = s.sent := by
  unfold State.done; split <;> rfl
@[simp] theorem State.done_sampleCount (s : State) : s.done.sampleCount = s.sampleCount := by
  unfold State.done; split <;> rfl

end Sys2Proof.Machine
end

