-- ==== Sys2Proof/Laws/Ops.lean ====
section
/-! SUPPORT. One lemma for each shared operation, saying once what it can do. -/

namespace Sys2Proof.Machine

/-! ### Sequencing -/

@[simp] theorem andThen_next (s : State) (f : State → Host.Outcome State Fault Refusal) :
    andThen (.next s) f = f s := rfl

/-- A sequence answers a next state only through a next state of its first half. -/
theorem andThen_eq_next {o : Host.Outcome State Fault Refusal} {f : State → Host.Outcome State Fault Refusal}
    {t : State} (h : andThen o f = .next t) : ∃ s, o = .next s ∧ f s = .next t := by
  cases o with
  | next s => exact ⟨s, rfl, h⟩
  | fault r => nomatch h
  | refused r => nomatch h

/-! ### The select word -/

@[simp] theorem selectWord_bit3 (fh fl lt fb : Bool) : (selectWord fh fl lt fb)[3] = fh := by
  revert fh fl lt fb; decide

@[simp] theorem selectWord_bit2 (fh fl lt fb : Bool) : (selectWord fh fl lt fb)[2] = fl := by
  revert fh fl lt fb; decide

@[simp] theorem selectWord_bit1 (fh fl lt fb : Bool) : (selectWord fh fl lt fb)[1] = lt := by
  revert fh fl lt fb; decide

@[simp] theorem selectWord_bit0 (fh fl lt fb : Bool) : (selectWord fh fl lt fb)[0] = fb := by
  revert fh fl lt fb; decide

/-- The priority of the mux, read off the decoder (rules R44, R50). -/
theorem decodeSel_selectWord (fh fl lt fb : Bool) :
    decodeSel (selectWord fh fl lt fb) =
      if fh then .sethi fl lt fb else if fl then .setlo lt fb else if lt then .flip fb else .pass fb := by
  revert fh fl lt fb; decide

/-! ### The arms and ENCODE -/

/-- Whatever the select word, its arm shifts in the bit `NextBit` chooses, and does nothing else (rules R50 to R57). -/
theorem exec_decodeSel (fh fl lt fb : Bool) (s : State) :
    exec (decodeSel (selectWord fh fl lt fb)) s = .next (s.shiftIn (nextBit fh fl lt fb)) := by
  rw [decodeSel_selectWord]
  cases fh <;> cases fl <;> cases lt <;> rfl

theorem exec_decodeEnc (r : Register) (s : State) :
    exec (decodeEnc r) s = .next (s.setEncResult (voltageCode s.straps r)) := rfl

/-! ### The clamps -/

@[simp] theorem sat10_toNat (x : Nat) : (sat10 x).toNat = min x 1023 := by
  simp only [sat10, BitVec.toNat_ofNat]
  omega

theorem clamp12_range (v : Int) : 0 ≤ clamp12 v ∧ clamp12 v ≤ 4095 := by
  unfold clamp12; omega

theorem clamp12_mono {v w : Int} (h : v ≤ w) : clamp12 v ≤ clamp12 w := by
  unfold clamp12; omega

/-- The 12 bits hold the clamped number exactly. -/
theorem voltageCode_toInt (st : Straps) (r : Register) :
    ((voltageCode st r).toNat : Int) = clamp12 (scale st r) := by
  have h := clamp12_range (scale st r)
  simp only [voltageCode, BitVec.toNat_ofNat]
  omega

@[simp] theorem word16_toNat (c : Code) : (word16 c).toNat = c.toNat := by
  simp only [word16, BitVec.toNat_setWidth]
  omega

/-! ### The rotate and the commit -/

theorem rotl8_getLsbD (r : Register) (i : Nat) (hi : i < 8) :
    (rotl8 r).getLsbD i = if i = 0 then r.getLsbD 7 else r.getLsbD (i - 1) := by
  have h : i = 0 ∨ i = 1 ∨ i = 2 ∨ i = 3 ∨ i = 4 ∨ i = 5 ∨ i = 6 ∨ i = 7 := by omega
  rcases h with rfl | rfl | rfl | rfl | rfl | rfl | rfl | rfl <;> simp [rotl8, BitVec.getLsbD_of_ge]

theorem commit_getLsbD (rot : Register) (nb : Bool) (i : Nat) (hi : i < 8) :
    (commit rot nb).getLsbD i = if i = 0 then nb else rot.getLsbD i := by
  have h : i = 0 ∨ i = 1 ∨ i = 2 ∨ i = 3 ∨ i = 4 ∨ i = 5 ∨ i = 6 ∨ i = 7 := by omega
  rcases h with rfl | rfl | rfl | rfl | rfl | rfl | rfl | rfl <;> cases nb <;> simp [commit]

/-! ### Sending -/

/-- `DacSend` of the code ENCODE left, when it left one. -/
theorem State.sendCode_of_some {s : State} {c : Code} (h : s.encResult = some c) :
    s.sendCode = (s.dacSend (word16 c)).dropEncResult := by
  simp [State.sendCode, h]

/-! ### The event cycle -/

/-- The bit a recognised edge shifts in (rules R41 to R43, R50). -/
def edgeBit (st : Straps) (r : Register) (cw : ControlWord) : Bool :=
  nextBit cw.fh cw.fl (comparatorOf st cw) (feedbackBit st r cw.fbExt)

/-- The reference's value of an edge is the Register with that bit shifted in. -/
theorem edgeValue_eq (st : Straps) (r : Register) (cw : ControlWord) :
    edgeValue st r cw = commit (rotl8 r) (edgeBit st r cw) := rfl

/-- A recognised edge always completes, and what it does is: one arm's write, ENCODE of the value written, the send,
`busy`. -/
theorem recognisedEdge_eq (cw : ControlWord) (s : State) :
    recognisedEdge cw s =
      .next (((s.countSample.shiftIn (edgeBit s.straps s.R cw)).setEncResult
        (voltageCode s.straps (edgeValue s.straps s.R cw))).sendCode.markBusy) := by
  simp only [recognisedEdge, decode, assembleSelect, exec_decodeSel, exec_decodeEnc, andThen_next]
  rfl

/-- The state a recognised edge leaves, field by field. -/
theorem recognisedEdge_next (cw : ControlWord) (s : State) :
    recognisedEdge cw s = .next { s with
      R := edgeValue s.straps s.R cw
      busy := s.straps.gateEvents || s.busy
      encResult := none
      dacTrace := s.dacTrace ++ [word16 (voltageCode s.straps (edgeValue s.straps s.R cw))]
      sent := s.sent ++ [word16 (voltageCode s.straps (edgeValue s.straps s.R cw))]
      sampleCount := s.sampleCount + 1 } := by
  rw [recognisedEdge_eq, State.sendCode_of_some rfl, State.markBusy]
  cases h : s.straps.gateEvents <;>
    simp [State.setBusy, State.dropEncResult, State.dacSend, State.setEncResult, State.shiftIn, State.writeR,
      State.countSample, edgeValue_eq, h]

/-- Everything `step` can do: idle, a dropped edge, a recognised edge, `Done`, `Reset`. -/
theorem step_cases (s : State) :
    (s.stimulus = [] ∧ step s = .next s) ∨
    (∃ es, s.stimulus = .reset :: es ∧ step s = .next s.popEvent.resetEvent) ∨
    (∃ es, s.stimulus = .done :: es ∧ step s = .next s.popEvent.done) ∨
    (∃ cw es, s.stimulus = .edge cw :: es ∧ s.recognises = false ∧ step s = .next s.popEvent) ∨
    (∃ cw es, s.stimulus = .edge cw :: es ∧ s.recognises = true ∧ step s = recognisedEdge cw s.popEvent) := by
  unfold step nextEvent
  match h : s.stimulus with
  | [] => exact .inl ⟨rfl, rfl⟩
  | .reset :: es => exact .inr (.inl ⟨es, rfl, rfl⟩)
  | .done :: es => exact .inr (.inr (.inl ⟨es, rfl, rfl⟩))
  | .edge cw :: es =>
    have hp : s.popEvent.recognises = s.recognises := rfl
    cases hr : s.recognises with
    | false => exact .inr (.inr (.inr (.inl ⟨cw, es, rfl, rfl, by simp [onEvent, edge, hp, hr]⟩)))
    | true => exact .inr (.inr (.inr (.inr ⟨cw, es, rfl, rfl, by simp [onEvent, edge, hp, hr]⟩)))

/-- The same, read from a next state: which event it was, and the state it left. -/
theorem step_eq_next {s t : State} (h : step s = .next t) :
    (s.stimulus = [] ∧ t = s) ∨
    (∃ es, s.stimulus = .reset :: es ∧ t = s.popEvent.resetEvent) ∨
    (∃ es, s.stimulus = .done :: es ∧ t = s.popEvent.done) ∨
    (∃ cw es, s.stimulus = .edge cw :: es ∧ s.recognises = false ∧ t = s.popEvent) ∨
    (∃ cw es, s.stimulus = .edge cw :: es ∧ s.recognises = true ∧ recognisedEdge cw s.popEvent = .next t) := by
  rcases step_cases s with ⟨a, e⟩ | ⟨es, a, e⟩ | ⟨es, a, e⟩ | ⟨cw, es, a, b, e⟩ | ⟨cw, es, a, b, e⟩ <;>
    rw [e] at h
  · exact .inl ⟨a, (Host.Outcome.next.inj h).symm⟩
  · exact .inr (.inl ⟨es, a, (Host.Outcome.next.inj h).symm⟩)
  · exact .inr (.inr (.inl ⟨es, a, (Host.Outcome.next.inj h).symm⟩))
  · exact .inr (.inr (.inr (.inl ⟨cw, es, a, b, (Host.Outcome.next.inj h).symm⟩)))
  · exact .inr (.inr (.inr (.inr ⟨cw, es, a, b, h⟩)))

/-! ### Runs -/

@[simp] theorem Run.after_zero (r : Run) : r.after 0 = .next (State.resetOf r.straps) := rfl

/-- One more event of a run. -/
theorem Run.after_succ_of_some {r : Run} {k : Nat} {s : State} {e : Event} (h : r.after k = .next s)
    (he : r.events.event? k = some e) : r.after (k + 1) = deliver e s := by
  simp [Run.after, h, he]

/-- Where the environment has stopped, the state stays. -/
theorem Run.after_succ_of_none {r : Run} {k : Nat} {s : State} (h : r.after k = .next s)
    (he : r.events.event? k = none) : r.after (k + 1) = .next s := by
  simp [Run.after, h, he]

/-- The events so far, grown by the next one. -/
theorem EventSeq.take_succ_of_some {q : EventSeq} {k : Nat} {e : Event} (h : q.event? k = some e) :
    q.take (k + 1) = q.take k ++ [e] := by
  cases q with
  | finite es => simp_all [EventSeq.take, EventSeq.event?, List.take_add_one]
  | infinite es => simp_all [EventSeq.take, EventSeq.event?, List.range_succ]

theorem EventSeq.take_succ_of_none {q : EventSeq} {k : Nat} (h : q.event? k = none) :
    q.take (k + 1) = q.take k := by
  cases q with
  | finite es => simp_all [EventSeq.take, EventSeq.event?, List.take_add_one]
  | infinite es => simp [EventSeq.event?] at h

/-- A view grown by one event. -/
theorem RunView.ofRun_append (st : Straps) (es : List Event) (e : Event) :
    RunView.ofRun st (es ++ [e]) = (RunView.ofRun st es).after st e := by
  simp [RunView.ofRun]

@[simp] theorem runFor_zero (s : State) : runFor 0 s = .next s := rfl

/-- A run whose first step answers `t` is the rest of the run from `t`. -/
theorem runFor_succ {s t : State} (h : step s = .next t) (k : Nat) : runFor (k + 1) s = runFor k t := by
  have hc : Sys2Proof.core.step s = .next t := h
  simp only [runFor, Host.Core.run, hc]
  rfl

end Sys2Proof.Machine
end

