-- ==== Sys2Proof/Laws/PerInstr.lean ====
section
/-! SUPPORT. The family FitsItsRow, an operation's word against its row of spec/opcode_table.json, one lemma for each
constructor. -/

namespace Sys2Proof.Laws

/-- The row of rule R44's table an operation is an arm of; ENCODE stands in the other format and has none. -/
def rowOf : Instr → Option SelRow
  | .sethi _ _ _ => some rowSETHI
  | .setlo _ _ => some rowSETLO
  | .flip _ => some rowFLIP
  | .pass _ => some rowPASS
  | .encode _ => none

namespace FitsItsRow

/-- The word of `i` hits its own row of rule R44's table and no other; a word of format ENC belongs to ENCODE. -/
def Statement (i : Instr) : Prop :=
  match encode i with
  | .sel w => (selRows.filter (·.hits w)).map some = [rowOf i]
  | .enc r => i = .encode r

theorem sethi (fl lt fb : Bool) : Statement (.sethi fl lt fb) := by
  cases fl <;> cases lt <;> cases fb <;> rfl

theorem setlo (lt fb : Bool) : Statement (.setlo lt fb) := by
  cases lt <;> cases fb <;> rfl

theorem flip (fb : Bool) : Statement (.flip fb) := by
  cases fb <;> rfl

theorem pass (fb : Bool) : Statement (.pass fb) := by
  cases fb <;> rfl

theorem encode (r : Register) : Statement (.encode r) := rfl

end FitsItsRow

end Sys2Proof.Laws
end

