-- ==== Sys2Proof/Tests/Slice0.lean ====
section
/-! SUPPORT. Tests on fixed values, expected results from spec/95_test_vectors.md and the rules' own examples, and for each
statement with hypotheses a witness that meets them. -/

namespace Sys2Proof.Tests
open Sys2Proof Sys2Proof.Machine

/-! ### Helpers -/

/-- The next state of an outcome, if it is one. -/
def answer : Host.Outcome State Fault Refusal → Option State
  | .next s => some s
  | .fault _ => none
  | .refused _ => none

/-- Default straps but for the seed, the feedback wiring and the gating. -/
def straps (fb : FbSel) (gate : Bool) : Straps :=
  { Straps.default with seed := 0x3C#8, fbSel := fb, gateEvents := gate }

/-- A state `(R, busy)` of section 2.7, with one event to come. -/
def before (st : Straps) (r : Register) (busy : Bool) (e : Event) : State :=
  { State.resetOf st with R := r, busy := busy, stimulus := [e] }

/-- `(R, busy)` and the words sent by one step. -/
def after (s : State) : Option (Register × Bool × List DacWord) :=
  (answer (step s)).map fun t => (t.R, t.busy, t.sent)

/-- The control word of width 16 written as a number. -/
def cw16 (n : Nat) : ControlWord := unpackCw 16 n

/-! ### Well-formedness: an ill-formed term for each check -/

theorem smoke_sampleW : ({ Straps.default with sampleW := 9 } : Straps).sampleWLegal = false := by decide
theorem smoke_outLo_low : ({ Straps.default with encOutLo := -32769 } : Straps).outLoLegal = false := by decide
theorem smoke_outLo_high : ({ Straps.default with encOutLo := 32768 } : Straps).outLoLegal = false := by decide
theorem smoke_outHi_below_lo :
    ({ Straps.default with encOutLo := 5, encOutHi := 4 } : Straps).outHiLegal = false := by decide
theorem smoke_outHi_high : ({ Straps.default with encOutHi := 32768 } : Straps).outHiLegal = false := by decide
theorem smoke_legal_needs_every_check :
    ({ Straps.default with sampleW := 9 } : Straps).legal = false ∧
    ({ Straps.default with encOutLo := -32769 } : Straps).legal = false ∧
    ({ Straps.default with encOutHi := 32768 } : Straps).legal = false ∧ Straps.default.legal = true := by decide
theorem smoke_thr_too_wide :
    (ControlWord.fits 16 { fh := false, fl := false, thrRaw := 65536, rndRaw := 0, fbExt := false }) = false := by decide
theorem smoke_rnd_too_wide :
    (ControlWord.fits 16 { fh := false, fl := false, thrRaw := 0, rndRaw := 65536, fbExt := false }) = false := by decide
theorem smoke_event_too_wide :
    Event.fits 10 (.edge { fh := false, fl := false, thrRaw := 1024, rndRaw := 0, fbExt := false }) = false := by decide
/-- Rule R45: no operation is ill formed. -/
theorem smoke_every_instr_wellFormed (i : Instr) : i.wellFormed = true := by cases i <;> rfl

/-! ### Decode, words written out from rules R38 to R44 -/

theorem test_decode_sethi : decode (.sel 0b1010#4) = .sethi false true false := by decide
theorem test_decode_setlo : decode (.sel 0b0111#4) = .setlo true true := by decide
theorem test_decode_flip : decode (.sel 0b0011#4) = .flip true := by decide
theorem test_decode_pass : decode (.sel 0b0001#4) = .pass true := by decide
theorem test_decode_encode : decode (.enc 0x11#8) = .encode 0x11#8 := by decide
theorem test_sel_rows_cover : ∀ w : SelectWord, selRows.any (·.hits w) = true := by decide
theorem test_table_words :
    decodeTableWord 4 0x8 = some (.sethi false false false) ∧ decodeTableWord 8 0x4 = some (.setlo false false) ∧
    decodeTableWord 8 0x2 = some (.flip false) ∧ decodeTableWord 4 0x0 = some (.pass false) ∧
    decodeTableWord 8 0xFE = some (.encode 0xFE#8) := by decide
theorem test_table_rejects_by_name :
    formatOfLength 16 0 = .error (.noSuchFormat 16) ∧ formatWord .sel 16 = .error (.tooWide .sel 16) ∧
    formatWord .enc 256 = .error (.tooWide .enc 256) ∧ decodeTableWord 16 0 = none := by decide
/-- Section 2.5: the all-ones control words of widths 16 and 10, and the example of width 10. -/
theorem test_cw_words :
    packCw 16 { fh := true, fl := true, thrRaw := 65535, rndRaw := 65535, fbExt := true } = 0x7FFFFFFFF ∧
    packCw 10 { fh := true, fl := true, thrRaw := 1023, rndRaw := 1023, fbExt := true } = 0x7FFFFF ∧
    packCw 10 { fh := false, fl := false, thrRaw := 512, rndRaw := 100, fbExt := false } = 0x1000C8 := by decide

/-! ### Operands, section 2.1 -/

/-- Raw draw below raw threshold, both above 1023: no inversion. -/
theorem test_both_clamp : comparatorOf Straps.default (cw16 (2000 * 2 ^ 17 + 1500 * 2)) = false := by decide
theorem test_threshold_clamps : comparatorOf Straps.default (cw16 (5000 * 2 ^ 17 + 1022 * 2)) = true := by decide

/-! ### The operations, one step each (sections 2.4, 2.6) -/

theorem test_sethi_drops_bit7 :
    (answer (exec (.sethi true false true) { State.reset with R := 0x80#8 })).map (·.R) = some 0x01#8 := by decide
theorem test_setlo : (answer (exec (.setlo true true) { State.reset with R := 0xA5#8 })).map (·.R) = some 0x4A#8 := by decide
theorem test_flip_complements :
    (answer (exec (.flip false) { State.reset with R := 0x55#8 })).map (·.R) = some 0xAB#8 := by decide
theorem test_flip_one : (answer (exec (.flip true) { State.reset with R := 0x00#8 })).map (·.R) = some 0x00#8 := by decide
theorem test_pass_carries :
    (answer (exec (.pass true) { State.reset with R := 0x7F#8 })).map (·.R) = some 0xFF#8 := by decide
theorem test_encode_clamps_high :
    (answer (exec (.encode 254#8) { State.reset with straps := { Straps.default with encOutLo := -100, encOutHi := 5000 } })).map
      (·.encResult) = some (some 4095#12) := by decide
theorem test_encode_span256 :
    (answer (exec (.encode 255#8)
      { State.reset with straps := { Straps.default with encInSpan := .s256, encOutLo := -1, encOutHi := 4096 } })).map
      (·.encResult) = some (some 4079#12) := by decide

/-! ### Events, section 2.7 -/

theorem test_edge_ungated :
    after (before (straps .int false) 0x01#8 false (.edge (cw16 0x400000000))) = some (0x03#8, false, [0x0030#16]) := by decide
theorem test_edge_gated :
    after (before (straps .int true) 0x00#8 false (.edge (cw16 0x400000000))) = some (0x01#8, true, [0x0010#16]) := by decide
theorem test_edge_dropped :
    after (before (straps .int true) 0x01#8 true (.edge (cw16 0x400000000))) = some (0x01#8, true, []) := by decide
theorem test_done :
    after (before (straps .int true) 0x01#8 true .done) = some (0x01#8, false, []) := by decide
theorem test_done_ungated : after (before (straps .int false) 0x03#8 false .done) = some (0x03#8, false, []) := by decide
theorem test_reset_event : after (before (straps .int true) 0x9A#8 true .reset) = some (0x3C#8, false, []) := by decide
theorem test_edge_external :
    after (before (straps .ext false) 0x80#8 false (.edge (cw16 0))) = some (0x00#8, false, [0x0000#16]) := by decide
theorem test_edge_internal_ignores_fb_ext :
    after (before (straps .int false) 0x80#8 false (.edge (cw16 1))) = some (0x01#8, false, [0x0010#16]) := by decide
/-- The worked example of rule R70. -/
theorem test_edge_example :
    after (before (straps .int false) 0xA5#8 false (.edge (cw16 0x0040000C8))) = some (0x4A#8, false, [0x04A4#16]) := by decide
/-- The fourth recognised edge of program P3. -/
theorem test_listing_p3 :
    listing (cw16 0x005780576) { State.resetOf (straps .ext true) with R := 0xE6#8 } = some (0b0010#4, .flip false) := by decide
/-- The first edge of program P3 as a script. -/
theorem test_script_p3_first_edge :
    Script.passes (Script.mk (straps .ext true)
      [.reset, .edge (cw16 1), .expect 0x79#8 (some 1943#12) (some true) (some 1)]) = true := by decide
theorem test_script_must_begin_with_reset :
    Script.passes (Script.mk (straps .ext true) [.edge (cw16 1)]) = false := by decide

/-! ### Placed words: the host's two questions from the reset state -/

theorem test_placed_sethi : (answer (step (State.reset.withFetchWord 8 0x8))).map (·.R) = some 0x01#8 := by decide
theorem test_placed_flip : (answer (step (State.reset.withFetchWord 8 0x3))).map (·.R) = some 0x00#8 := by decide
theorem test_placed_encode :
    (answer (step (State.reset.withFetchWord 8 0xB2))).map (fun t => (t.R, t.sent)) = some (0xB2#8, [0x0B2A#16]) := by decide

/-! ### Witnesses: the hypotheses of each statement are met -/

/-- A control word of width 16 with both samples at the top of their ports. -/
def fullCw : ControlWord := { fh := false, fl := false, thrRaw := 65535, rndRaw := 65535, fbExt := true }

/-- Threshold 1023 and draw 0: `lt = 1`. -/
def flipCw : ControlWord := pseudoFLIP false

theorem witness_DecodeAndEncodeAreInverse : (Instr.sethi true true true).wellFormed = true := by decide
theorem witness_ControlWordRoundTrip :
    fullCw.fits 16 = true ∧ (15 < 16) ∧ (0x7FFFFFFFF < 2 ^ (2 * 16 + 3)) ∧
    ControlWord.fits 0 { fh := true, fl := true, thrRaw := 0, rndRaw := 0, fbExt := true } = true := by decide
theorem witness_EveryWordHasAMeaning : 1023 < 1024 ∧ 15 < 16 := by decide
theorem witness_SamplesClampTo1023 : fullCw.fits (straps .int false).sampleW = true ∧ 10 ≤ 10 ∧ 1023 < 2 ^ 10 := by decide
theorem witness_ComparatorIsStrict : 1023 < 1024 := by decide
theorem witness_SelectWordIsAssembled : (straps .int false).fbSel = .int ∧ (straps .ext false).fbSel = .ext := by decide
theorem witness_PseudoStatementsReachTheirArms :
    ((straps .int false).legal = true ∧ (straps .int false).fbSel = .int) ∧
    ((straps .ext false).legal = true ∧ (straps .ext false).fbSel = .ext) := by decide
theorem witness_RotateIsCircular : 1 ≤ 1 ∧ 1 ≤ 7 ∧ 7 ≤ 7 := by decide
theorem witness_CommitReplacesTheLowBit : 1 ≤ 1 ∧ 1 ≤ 7 ∧ 7 ≤ 7 := by decide
theorem witness_StepLaws :
    (1 ≤ 7 ∧ 7 ≤ 7) ∧
    (comparator 0#10 1#10 = comparator 1022#10 1023#10 ∨ false = true ∨ false = true) ∧
    (comparator 0#10 1#10 = comparator 1#10 0#10 ∨ true = true ∨ false = true) := by decide
theorem witness_FlipShiftsInTheComplement :
    sat10 (sampleThreshold (straps .int false) (cw16 0)) = 0#10 ∧
    (0#10).toNat < (1#10).toNat ∧ (0x7F#8).getLsbD 7 = false ∧ (0x80#8).getLsbD 7 = true := by decide
theorem witness_PassShiftsInTheFeedback :
    (1023#10).toNat ≤ (1023#10).toNat ∧ (cw16 0).fh = false ∧ (cw16 0).fl = false ∧
    sat10 (sampleThreshold (straps .int false) (cw16 0)) = 0#10 ∧
    (fullCw.fh = false ∧ fullCw.fl = false ∧
      sat10 (sampleRandom (straps .int false) fullCw) = sat10 (sampleThreshold (straps .int false) fullCw)) := by decide

/-- A recognised edge with internal feedback, for each arm. -/
def internal : State := { State.resetOf (straps .int false) with R := 0xA5#8 }

theorem witness_InternalFeedbackEdges :
    internal.straps.fbSel = .int ∧ internal.recognises = true ∧ internal.straps.gateEvents = false ∧
    ((answer (edge pseudoSETHI internal)).isSome ∧ pseudoSETHI.fh = true) ∧
    ((answer (edge pseudoSETLO internal)).isSome ∧ pseudoSETLO.fh = false ∧ pseudoSETLO.fl = true) ∧
    ((answer (edge flipCw internal)).isSome ∧ flipCw.fh = false ∧ flipCw.fl = false ∧
      comparatorOf internal.straps flipCw = true) ∧
    ((answer (edge fullCw internal)).isSome ∧ fullCw.fh = false ∧ fullCw.fl = false ∧
      comparatorOf internal.straps fullCw = false) ∧
    ((List.replicate 8 fullCw).length = 8 ∧
      ∀ cw ∈ List.replicate 8 fullCw, cw.fh = false ∧ cw.fl = false ∧ comparatorOf internal.straps cw = false) := by decide
theorem witness_EightEdgeLaws :
    internal.straps.legal = true ∧ internal.straps.fbSel = .int ∧ internal.straps.gateEvents = false := by decide
theorem witness_ArmsWriteOnlyR : exec (decode (.sel 0b0011#4)) internal = .next (internal.writeR 0x4A#8) := by rfl
theorem witness_ScaleIsTheFlooredLine :
    ({ straps .int false with encOutLo := -32768, encOutHi := 32767 } : Straps).legal = true ∧
    (straps .int false).encInSpan = .s255 := by decide
theorem witness_ClampActsOnlyOutside :
    ((straps .int false).legal = true ∧ 0 ≤ (straps .int false).encOutLo ∧ (straps .int false).encOutHi ≤ 4095) ∧
    ({ straps .int false with encOutLo := -1 } : Straps).encOutLo < 0 ∧
    (({ straps .int false with encOutHi := 4096 } : Straps).encInSpan = .s255 ∧
      4095 < ({ straps .int false with encOutHi := 4096 } : Straps).encOutHi) := by decide
theorem witness_EncodeLaws :
    (straps .int false).legal = true ∧ (254#8).toNat ≤ (255#8).toNat ∧ (254#8).toNat < (255#8).toNat := by decide
theorem witness_EncodeClosedForms : (254#8).toNat < 255 := by decide
theorem witness_ScalerWidths :
    ({ straps .int false with encOutLo := -32768, encOutHi := 32767 } : Straps).legal = true ∧ 16 < (17#8).toNat := by decide
theorem witness_WordCarriesTheCode : internal.recognises = true ∧ (answer (edge flipCw internal)).isSome := by decide

/-- Gated, nothing outstanding, one edge to come. -/
def gatedOpen : State := before (straps .ext true) 0x3C#8 false (.edge fullCw)

/-- Gated, a send outstanding, one edge to come. -/
def gatedBusy : State := before (straps .ext true) 0x79#8 true (.edge fullCw)

theorem witness_StepRunsTheDecodedWords :
    gatedOpen.stimulus = [.edge fullCw] ∧ gatedOpen.recognises = true ∧
    decode (.sel (assembleSelect gatedOpen.straps gatedOpen.R fullCw)) = .pass true := by decide
theorem witness_RecognisedEdgeEffect :
    gatedOpen.stimulus = [.edge fullCw] ∧ fullCw.fits gatedOpen.straps.sampleW = true ∧
    (gatedOpen.straps.gateEvents = false ∨ gatedOpen.busy = false) ∧
    ((before (straps .int false) 0xA5#8 false (.edge flipCw)).stimulus = [.edge flipCw] ∧
      flipCw.fits 16 = true ∧ (before (straps .int false) 0xA5#8 false (.edge flipCw)).straps.gateEvents = false) := by decide
theorem witness_DroppedEdgeHasNoEffect :
    (gatedBusy.stimulus = [.edge fullCw] ∧ gatedBusy.straps.gateEvents = true ∧ gatedBusy.busy = true) ∧
    internal.straps.gateEvents = false := by decide
theorem witness_DoneClearsBusy :
    (before (straps .int true) 0x01#8 true .done).stimulus = [.done] ∧
    ((before (straps .int true) 0x01#8 false .done).stimulus = [.done] ∧
      (before (straps .int true) 0x01#8 false .done).busy = false) ∧
    (gatedBusy.straps.gateEvents = true ∧ gatedBusy.busy = true) := by decide
theorem witness_ResetEventEffect :
    (before (straps .int true) 0x9A#8 true .reset).stimulus = [.reset] ∧
    (before (straps .int true) 0x9A#8 true .reset).encResult = none := by decide
theorem witness_IdleHoldsTheState : internal.stimulus = [] := by decide
theorem witness_CoincidenceOrder :
    (({ rst := true, evt := some fullCw, dacDone := true } : Occurrence).rst = true ∧ gatedBusy.encResult = none) ∧
    (gatedBusy.straps.gateEvents = true ∧ gatedBusy.busy = true) ∧
    (gatedOpen.straps.gateEvents = true ∧ gatedOpen.busy = false ∧ gatedOpen.encResult = none) := by decide
theorem witness_OnlyResetAndRecognisedEdgeWriteR :
    (answer (step gatedOpen)).any (·.R != gatedOpen.R) = true ∧
    (answer (step (before (straps .int true) 0x9A#8 true .reset))).any (·.R != 0x9A#8) = true := by decide
theorem witness_OnlyGatedEventsMoveBusy :
    ((answer (step gatedOpen)).any (·.busy) = true ∧ gatedOpen.busy = false) ∧
    ((answer (step (before (straps .int true) 0x01#8 true .done))).any (!·.busy) = true ∧
      (before (straps .int true) 0x01#8 true .done).busy = true) ∧
    ((answer (step internal)).isSome ∧ internal.straps.gateEvents = false ∧ internal.busy = false) := by decide
theorem witness_OneSendPerRecognisedEdge :
    (gatedOpen.encResult = none ∧ (answer (step gatedOpen)).isSome) ∧
    (gatedBusy.encResult = none ∧ (answer (step gatedBusy)).isSome) := by decide
theorem witness_SelectWordCarriesEverything :
    (assembleSelect internal.straps internal.R flipCw =
      assembleSelect internal.straps internal.R { flipCw with thrRaw := 512, rndRaw := 100, fbExt := true }) ∧
    internal.straps.fbSel = .int ∧ pseudoSETHI.fh = true ∧ ({ fullCw with fh := true } : ControlWord).fh = true := by decide
theorem witness_ObservationsAreNeverRead :
    (answer (step gatedOpen)).map (·.sent) = some (gatedOpen.sent ++ [0x0797#16]) := by decide
theorem witness_PlacedWordIsRun : gatedBusy.straps.legal = true ∧ gatedBusy.encResult = none := by decide
theorem witness_ResetStateMeetsTheInvariant :
    (straps .ext true).legal = true ∧
    ∀ e ∈ [Event.reset, .edge fullCw, .done], e.fits (straps .ext true).sampleW = true := by decide

/-- A gated state in the middle of a run: one word sent, its `Done` and an edge to come. -/
def midRun : State :=
  { State.resetOf (straps .ext true) with
    R := 0x79#8, busy := true, stimulus := [.done, .edge fullCw], dacTrace := [0x0797#16], sent := [0x0797#16],
    sampleCount := 1 }

theorem midRun_traceMatchesR : midRun.traceMatchesR := by
  change (0x0797#16 : DacWord) = word16 (voltageCode midRun.straps midRun.R)
  decide

theorem midRun_straps : midRun.straps.legal = true := by decide
theorem midRun_samples : ∀ e ∈ midRun.stimulus, e.fits midRun.straps.sampleW = true := by decide
theorem midRun_words : ∀ w ∈ midRun.sent, w.toNat ≤ 4095 := by simp [midRun]
theorem midRun_count : midRun.sampleCount = midRun.sent.length := by decide

theorem midRun_inv : midRun.Inv where
  straps_legal := midRun_straps
  samples_fit := midRun_samples
  busy_gated := by decide
  busy_sent := by decide
  code_dropped := rfl
  trace_matches := midRun_traceMatchesR
  trace_suffix := List.suffix_refl _
  words_12bit := midRun_words
  one_send_per_sample := midRun_count

theorem witness_EveryStepKeepsTheInvariant : midRun.Inv ∧ step midRun = .next midRun.popEvent.done :=
  ⟨midRun_inv, rfl⟩
theorem witness_RunsFromTheInvariantAreSafe : midRun.Inv := midRun_inv
theorem witness_StepFollowsTheRecurrence :
    midRun.stimulus = [.done, .edge fullCw] ∧
    midRun.Agrees { R := 0x79#8, busy := true, written := [0x79#8] } := by
  refine ⟨rfl, rfl, rfl, ?_⟩
  decide
/-- A finite run that ends with a send outstanding: its one edge is recognised under gating. -/
theorem witness_RunsAreFiniteOrInfinite :
    (answer ((Run.mk (straps .ext true) (.finite [.edge fullCw])).after 1)).map (·.busy) = some true ∧
    (Run.mk (straps .ext true) (.finite [.edge fullCw])).events = .finite [.edge fullCw] := by
  refine ⟨by decide, rfl⟩
/-- Edges for ever, all samples at the top of their ports. -/
theorem witness_EveryInfiniteRunExists :
    (straps .ext true).legal = true ∧ ∀ k, ((fun _ : Nat => Event.edge fullCw) k).fits (straps .ext true).sampleW = true := by
  refine ⟨by decide, fun _ => ?_⟩
  change fullCw.fits (straps .ext true).sampleW = true
  decide
/-- The infinite run that alternates an edge and its `Done`, after three events. -/
theorem test_infinite_run :
    (answer ((Run.mk (straps .ext true) (.infinite fun k => if k % 2 = 0 then .edge (cw16 1) else .done)).after 3)).map
      (fun t => (t.R, t.busy, t.dacTrace.length)) = some (0xF3#8, true, 2) := by decide
theorem witness_EveryAnsweredEdgeSends :
    (gatedOpen.straps.gateEvents = true ∧ gatedOpen.busy = false ∧ gatedOpen.encResult = none) ∧
    (internal.straps.gateEvents = false ∧ internal.encResult = none) := by decide

end Sys2Proof.Tests
end

section
/-! The outputs between events (rule R37) and the edge mask (rules R70, R71), each read off the fields of the state, and
the state after reset (rule R22). -/

namespace Sys2Proof.Machine

@[simp] theorem State.regQ_eq_R (s : State) : s.regQ = s.R := rfl

@[simp] theorem State.codeOut_eq_voltageCode (s : State) : s.codeOut = voltageCode s.straps s.R := rfl

/-- With `busy` down the edge mask is open, under either gating. -/
theorem State.recognises_of_not_busy {s : State} (h : s.busy = false) : s.recognises = true := by
  simp [State.recognises, h]

/-- Settles O34: `resetOf` fixes the fields, the outputs are read off them, and `busy` down leaves the mask open. -/
theorem stateAfterReset : Obligations.StateAfterReset := by
  intro st
  have hmask : (State.resetOf st).recognises = true := State.recognises_of_not_busy (State.resetOf_busy st)
  refine ⟨State.resetOf_R st, State.resetOf_busy st, State.resetOf_straps st, ?regQ, ?codeOut,
    State.resetOf_dacTrace st, hmask⟩
  case regQ => rw [State.regQ_eq_R, State.resetOf_R]
  case codeOut => rw [State.codeOut_eq_voltageCode, State.resetOf_straps, State.resetOf_R]

end Sys2Proof.Machine
end

section
/-! Format CW (rule R38): the control word is a number with the five samples as its digits, `fb_ext` lowest. -/

namespace Sys2Proof

theorem ControlWord.fits_iff (w : Nat) (cw : ControlWord) :
    cw.fits w = true ↔ cw.thrRaw < 2 ^ w ∧ cw.rndRaw < 2 ^ w := by
  simp [ControlWord.fits]

/-! ### Reading and writing a number digit by digit -/

/-- A digit of `j` bits written below `a` is dropped by the shift that reads `a`. -/
theorem two_pow_mul_add_div (j a : Nat) {b : Nat} (hb : b < 2 ^ j) : (2 ^ j * a + b) / 2 ^ j = a := by
  rw [Nat.mul_add_div (Nat.two_pow_pos j), Nat.div_eq_of_lt hb, Nat.add_zero]

/-- The `j` bits of `n` from bit `k` on, put back under the bits above them. -/
theorem two_pow_mul_div_add_digit (n k j : Nat) :
    2 ^ j * (n / 2 ^ (k + j)) + n / 2 ^ k % 2 ^ j = n / 2 ^ k := by
  rw [Nat.pow_add, ← Nat.div_div_eq_div_mul, Nat.div_add_mod]

/-! ### The digits of a control word -/

/-- The two forces, the upper digit of a control word. -/
def ControlWord.forces (cw : ControlWord) : Nat := 2 * cw.fh.toNat + cw.fl.toNat

theorem ControlWord.forces_lt (cw : ControlWord) : cw.forces < 4 := by
  have hfh := cw.fh.toNat_lt
  have hfl := cw.fl.toNat_lt
  unfold ControlWord.forces; omega

/-- Rule R38's places as nested digits. -/
theorem packCw_eq_digits (w : Nat) (cw : ControlWord) :
    packCw w cw = 2 * (2 ^ w * (2 ^ w * cw.forces + cw.thrRaw) + cw.rndRaw) + cw.fbExt.toNat := by
  unfold packCw ControlWord.forces; ring

theorem packCw_div_two (w : Nat) (cw : ControlWord) :
    packCw w cw / 2 = 2 ^ w * (2 ^ w * cw.forces + cw.thrRaw) + cw.rndRaw := by
  rw [packCw_eq_digits]
  exact two_pow_mul_add_div 1 _ cw.fbExt.toNat_lt

theorem packCw_div_above_rnd {w : Nat} {cw : ControlWord} (hrnd : cw.rndRaw < 2 ^ w) :
    packCw w cw / 2 ^ (w + 1) = 2 ^ w * cw.forces + cw.thrRaw := by
  rw [Nat.pow_succ', ← Nat.div_div_eq_div_mul, packCw_div_two, two_pow_mul_add_div w _ hrnd]

theorem packCw_div_above_thr {w : Nat} {cw : ControlWord} (hthr : cw.thrRaw < 2 ^ w) (hrnd : cw.rndRaw < 2 ^ w) :
    packCw w cw / 2 ^ (2 * w + 1) = cw.forces := by
  rw [show 2 * w + 1 = w + 1 + w by omega, Nat.pow_add, ← Nat.div_div_eq_div_mul, packCw_div_above_rnd hrnd,
    two_pow_mul_add_div w _ hthr]

/-- The control word has `2*w + 3` bits. -/
theorem packCw_lt {w : Nat} {cw : ControlWord} (hthr : cw.thrRaw < 2 ^ w) (hrnd : cw.rndRaw < 2 ^ w) :
    packCw w cw < 2 ^ (2 * w + 3) := by
  have h : packCw w cw / 2 ^ (2 * w + 1) < 2 ^ 2 := packCw_div_above_thr hthr hrnd ▸ cw.forces_lt
  rwa [Nat.div_lt_iff_lt_mul (Nat.two_pow_pos _), ← Nat.pow_add, Nat.add_comm] at h

/-! ### The forces read from their number -/

theorem ControlWord.forces_testBit_zero (cw : ControlWord) : cw.forces.testBit 0 = cw.fl := by
  unfold ControlWord.forces; cases cw.fh <;> cases cw.fl <;> rfl

theorem ControlWord.forces_testBit_one (cw : ControlWord) : cw.forces.testBit 1 = cw.fh := by
  unfold ControlWord.forces; cases cw.fh <;> cases cw.fl <;> rfl

/-! ### Both round trips -/

/-- Samples that fit are read back from their control word. -/
theorem unpackCw_packCw {w : Nat} {cw : ControlWord} (hthr : cw.thrRaw < 2 ^ w) (hrnd : cw.rndRaw < 2 ^ w) :
    unpackCw w (packCw w cw) = cw := by
  have hforce (i : Nat) : (packCw w cw).testBit (2 * w + 1 + i) = cw.forces.testBit i := by
    rw [Nat.add_comm _ i, ← Nat.testBit_div_two_pow, packCw_div_above_thr hthr hrnd]
  have hfh : (packCw w cw).testBit (2 * w + 2) = cw.fh := (hforce 1).trans cw.forces_testBit_one
  have hfl : (packCw w cw).testBit (2 * w + 1) = cw.fl := (hforce 0).trans cw.forces_testBit_zero
  have hthrRaw : packCw w cw / 2 ^ (w + 1) % 2 ^ w = cw.thrRaw := by
    rw [packCw_div_above_rnd hrnd, Nat.mul_add_mod, Nat.mod_eq_of_lt hthr]
  have hrndRaw : packCw w cw / 2 % 2 ^ w = cw.rndRaw := by
    rw [packCw_div_two, Nat.mul_add_mod, Nat.mod_eq_of_lt hrnd]
  have hfb : (packCw w cw).testBit 0 = cw.fbExt := by
    rw [packCw_eq_digits, Nat.testBit_zero, Nat.mul_add_mod]
    cases cw.fbExt <;> rfl
  unfold unpackCw
  rw [hfh, hfl, hthrRaw, hrndRaw, hfb]

/-- Every number of `2*w + 3` bits is written back from its fields. -/
theorem packCw_unpackCw {w n : Nat} (hn : n < 2 ^ (2 * w + 3)) : packCw w (unpackCw w n) = n := by
  have htop : n / 2 ^ (2 * w + 2) < 2 := by
    rwa [Nat.div_lt_iff_lt_mul (Nat.two_pow_pos _), ← Nat.pow_succ']
  have hforces : (unpackCw w n).forces = n / 2 ^ (2 * w + 1) := by
    simp only [ControlWord.forces, unpackCw, Nat.toNat_testBit, Nat.mod_eq_of_lt htop]
    exact two_pow_mul_div_add_digit n (2 * w + 1) 1
  have hthr : 2 ^ w * (n / 2 ^ (2 * w + 1)) + (unpackCw w n).thrRaw = n / 2 ^ (w + 1) := by
    rw [show 2 * w + 1 = w + 1 + w by omega]
    exact two_pow_mul_div_add_digit n (w + 1) w
  have hrnd : 2 ^ w * (n / 2 ^ (w + 1)) + (unpackCw w n).rndRaw = n / 2 := by
    rw [Nat.add_comm w 1]
    exact two_pow_mul_div_add_digit n 1 w
  have hfb : (unpackCw w n).fbExt.toNat = n % 2 := by
    simp only [unpackCw, Nat.toNat_testBit, Nat.pow_zero, Nat.div_one]
  rw [packCw_eq_digits, hforces, hthr, hrnd, hfb, Nat.div_add_mod]

theorem unpackCw_fits (w n : Nat) : (unpackCw w n).fits w = true :=
  (ControlWord.fits_iff ..).2 ⟨Nat.mod_lt _ (Nat.two_pow_pos w), Nat.mod_lt _ (Nat.two_pow_pos w)⟩

/-! ### The bits of the two samples -/

theorem unpackCw_thrRaw_testBit (n : Nat) {w i : Nat} (hi : i < w) :
    (unpackCw w n).thrRaw.testBit i = n.testBit (w + 1 + i) := by
  simp [unpackCw, Nat.testBit_mod_two_pow, Nat.testBit_div_two_pow, hi, Nat.add_comm i]

theorem unpackCw_rndRaw_testBit (n : Nat) {w i : Nat} (hi : i < w) :
    (unpackCw w n).rndRaw.testBit i = n.testBit (1 + i) := by
  simp [unpackCw, Nat.testBit_mod_two_pow, Nat.testBit_div_two, hi, Nat.add_comm i]

/-- Settles O4: packing writes the samples as digits and unpacking reads them off, so the bits of the word are the bits
that unpacking it reads. -/
theorem controlWordRoundTrip : Obligations.ControlWordRoundTrip := by
  refine ⟨fun w cw hfits => ?fitting, fun w n hn => ⟨packCw_unpackCw hn, unpackCw_fits w n⟩, fun _ => rfl, rfl⟩
  obtain ⟨hthr, hrnd⟩ := (ControlWord.fits_iff w cw).1 hfits
  have hround := unpackCw_packCw hthr hrnd
  refine ⟨hround, packCw_lt hthr hrnd, ?fh, ?fl, fun i hi => ?thr, fun i hi => ?rnd, ?fb⟩
  case fh => exact congrArg ControlWord.fh hround
  case fl => exact congrArg ControlWord.fl hround
  case thr => rw [← unpackCw_thrRaw_testBit _ hi, hround]
  case rnd => rw [← unpackCw_rndRaw_testBit _ hi, hround]
  case fb => exact congrArg ControlWord.fbExt hround

end Sys2Proof
end

section
/-! Rule R45: an operation, an edge and a select word handed over by its number never fail to have a meaning. -/

namespace Sys2Proof.Machine

/-- Every operation completes in every state. -/
theorem exec_completes (i : Instr) (s : State) : ∃ t, exec i s = .next t := by
  cases i with
  | sethi fl lt fb => exact ⟨s.shiftIn true, rfl⟩
  | setlo lt fb => exact ⟨s.shiftIn false, rfl⟩
  | flip fb => exact ⟨s.shiftIn (!fb), rfl⟩
  | pass fb => exact ⟨s.shiftIn fb, rfl⟩
  | encode r => exact ⟨s.setEncResult (voltageCode s.straps r), rfl⟩

/-- Every edge completes in every state, recognised (rule R70) or dropped (rule R71). -/
theorem edge_completes (cw : ControlWord) (s : State) : ∃ t, edge cw s = .next t := by
  cases h : s.recognises with
  | true => exact ⟨_, by rw [edge, if_pos h, recognisedEdge_next]⟩
  | false => exact ⟨s, by simp [edge, h]⟩

/-- A raw sample from 1023 on means 1023 (rule R41). -/
theorem sat10_of_ge {x : Nat} (h : 1023 ≤ x) : sat10 x = 1023#10 :=
  congrArg (BitVec.ofNat 10) (Nat.min_eq_right h)

/-- The decode question of 4 bits is never refused. -/
theorem decodeTableWord_four {w : Nat} (h : w < 16) :
    decodeTableWord 4 w = some (decodeSel (BitVec.ofNat 4 w)) := by
  simp [decodeTableWord, tableFormatWord, formatOfLength, formatWord, decode, h]

/-- Settles O5: every operation and every edge completes, and the mux takes the upper force first. -/
theorem everyWordHasAMeaning : Obligations.EveryWordHasAMeaning :=
  ⟨fun fw s => exec_completes (decode fw) s,
    fun n s => edge_completes (unpackCw s.straps.sampleW n) s,
    fun lt fb => decodeSel_selectWord true true lt fb,
    fun _ hx => sat10_of_ge hx.le,
    fun _ hw => decodeTableWord_four hw⟩

end Sys2Proof.Machine
end

section
/-! The clamp of the samples (rule R41) and the strict comparison of what it leaves (rule R42). -/

namespace Sys2Proof.Machine

/-! ### The comparator -/

@[simp] theorem comparator_eq_true_iff (rnd thr : Sample) : comparator rnd thr = true ↔ rnd.toNat < thr.toNat := by
  simp [comparator]

@[simp] theorem comparator_zero (rnd : Sample) : comparator rnd 0#10 = false :=
  decide_eq_false (Nat.not_lt_zero _)

@[simp] theorem comparator_self (x : Sample) : comparator x x = false :=
  decide_eq_false (Nat.lt_irrefl _)

/-- 1023 is the greatest draw, so it alone is not below the threshold 1023. -/
theorem comparator_max_iff (rnd : Sample) : comparator rnd 1023#10 = true ↔ rnd ≠ 1023#10 := by
  have hrnd : rnd.toNat < 1024 := rnd.isLt
  rw [comparator_eq_true_iff, ne_eq, ← BitVec.toNat_inj, BitVec.toNat_ofNat]
  omega

/-! ### The clamp in front of it -/

/-- Two raw values are compared as the clamp leaves them. -/
theorem comparator_sat10 (x y : Nat) : comparator (sat10 x) (sat10 y) = decide (min x 1023 < min y 1023) := by
  simp only [comparator, sat10_toNat]

theorem sampleThreshold_of_fits {st : Straps} {cw : ControlWord} (h : cw.thrRaw < 2 ^ st.sampleW) :
    sampleThreshold st cw = cw.thrRaw := Nat.mod_eq_of_lt h

theorem sampleRandom_of_fits {st : Straps} {cw : ControlWord} (h : cw.rndRaw < 2 ^ st.sampleW) :
    sampleRandom st cw = cw.rndRaw := Nat.mod_eq_of_lt h

/-- The comparator's output for samples that fit their ports. -/
theorem comparatorOf_of_fits {st : Straps} {cw : ControlWord} (h : cw.fits st.sampleW = true) :
    comparatorOf st cw = decide (min cw.rndRaw 1023 < min cw.thrRaw 1023) := by
  obtain ⟨hthr, hrnd⟩ := (ControlWord.fits_iff ..).1 h
  rw [comparatorOf, sampleThreshold_of_fits hthr, sampleRandom_of_fits hrnd, comparator_sat10]

theorem sat10_toNat_of_lt {x : Nat} (h : x < 1024) : (sat10 x).toNat = x := by
  rw [sat10_toNat]; omega

/-- A width of 10 or more holds 1023. -/
theorem lt_two_pow_of_width {w : Nat} (hw : 10 ≤ w) : 1023 < 2 ^ w :=
  Nat.lt_of_lt_of_le (by decide : 1023 < 2 ^ 10) (Nat.pow_le_pow_right Nat.two_pos hw)

/-- Settles O6: a port that fits hands its raw value to the clamp, and the clamp is a minimum with 1023. -/
theorem samplesClampTo1023 : Obligations.SamplesClampTo1023 := by
  refine ⟨sat10_toNat, fun st cw h => comparatorOf_of_fits h, fun w hw => ?allOnes,
    fun x hx => sat10_toNat_of_lt hx⟩
  have hmax : 1023 ≤ 2 ^ w - 1 := Nat.le_sub_one_of_lt (lt_two_pow_of_width hw)
  rw [sat10_of_ge hmax]
  rfl

/-! ### The count of the draws below a threshold -/

/-- Among the numbers below `n`, those below `k ≤ n` are `k` many. -/
theorem countP_lt_range {k n : Nat} (h : k ≤ n) : ((List.range n).countP fun d => decide (d < k)) = k := by
  rw [List.countP_eq_length_filter, ← List.Ico.zero_bot, List.Ico.filter_lt, List.Ico.length, Nat.min_eq_right h,
    Nat.sub_zero]

/-- Of the 1024 draws, `thr` many are below the threshold `thr`. -/
theorem countP_comparator (thr : Sample) :
    ((List.range 1024).countP fun d => comparator (sat10 d) thr) = thr.toNat := by
  have hdraw : ∀ d ∈ List.range 1024, comparator (sat10 d) thr = true ↔ decide (d < thr.toNat) = true := by
    intro d hd
    rw [comparator_eq_true_iff, sat10_toNat_of_lt (List.mem_range.1 hd), decide_eq_true_iff]
  rw [List.countP_congr hdraw, countP_lt_range thr.isLt.le]

/-- Settles O7: the comparison is `<` on the clamped numbers, of which 1023 is the greatest. -/
theorem comparatorIsStrict : Obligations.ComparatorIsStrict := by
  refine ⟨comparator_eq_true_iff, comparator_zero, comparator_self, comparator_max_iff, fun thrRaw rnd h => ?above,
    ?bothAbove, countP_comparator⟩
  case above => rw [sat10_of_ge h.le]
  case bothAbove => rw [sat10_of_ge (by decide), sat10_of_ge (by decide), comparator_self]

end Sys2Proof.Machine
end

section
/-! The pseudo-statements of rule R49: the arm each one's samples select, and the pure rotate. -/

namespace Sys2Proof.Machine

/-- The arm an edge selects, by the priority of its forces and its comparator (rules R39, R44). -/
theorem decodeSel_assembleSelect (st : Straps) (r : Register) (cw : ControlWord) :
    decodeSel (assembleSelect st r cw) =
      if cw.fh then .sethi cw.fl (comparatorOf st cw) (feedbackBit st r cw.fbExt)
      else if cw.fl then .setlo (comparatorOf st cw) (feedbackBit st r cw.fbExt)
      else if comparatorOf st cw then .flip (feedbackBit st r cw.fbExt)
      else .pass (feedbackBit st r cw.fbExt) :=
  decodeSel_selectWord cw.fh cw.fl (comparatorOf st cw) (feedbackBit st r cw.fbExt)

/-! ### The comparator of each pseudo-statement -/

/-- A raw threshold of 0 gives `lt = 0` (rule R42). -/
theorem comparatorOf_of_thrRaw_zero (st : Straps) {cw : ControlWord} (h : cw.thrRaw = 0) :
    comparatorOf st cw = false := by
  have hthr : sampleThreshold st cw = 0 := by rw [sampleThreshold, h, Nat.zero_mod]
  rw [comparatorOf, hthr]
  exact comparator_zero _

/-- Threshold 1023 and draw 0 give `lt = 1`; the port has to be 10 bits wide to hold that threshold. -/
theorem comparatorOf_pseudoFLIP {st : Straps} (h : 10 ≤ st.sampleW) (b : Bool) :
    comparatorOf st (pseudoFLIP b) = true := by
  have hfits : (pseudoFLIP b).fits st.sampleW = true :=
    (ControlWord.fits_iff ..).2 ⟨lt_two_pow_of_width h, Nat.two_pow_pos _⟩
  rw [comparatorOf_of_fits hfits]
  rfl

theorem Straps.sampleW_of_legal {st : Straps} (h : st.legal = true) : 10 ≤ st.sampleW := by
  simp only [Straps.legal, Straps.sampleWLegal, Bool.and_eq_true, decide_eq_true_eq] at h
  obtain ⟨⟨hwidth, -⟩, -⟩ := h
  exact hwidth

/-! ### The arms -/

theorem decodeSel_pseudoSETHI (st : Straps) (r : Register) :
    decodeSel (assembleSelect st r pseudoSETHI) = .sethi false false (feedbackBit st r false) := by
  rw [decodeSel_assembleSelect, comparatorOf_of_thrRaw_zero st rfl]
  rfl

theorem decodeSel_pseudoSETLO (st : Straps) (r : Register) :
    decodeSel (assembleSelect st r pseudoSETLO) = .setlo false (feedbackBit st r false) := by
  rw [decodeSel_assembleSelect, comparatorOf_of_thrRaw_zero st rfl]
  rfl

theorem decodeSel_pseudoFLIP {st : Straps} (h : 10 ≤ st.sampleW) (r : Register) (b : Bool) :
    decodeSel (assembleSelect st r (pseudoFLIP b)) = .flip (feedbackBit st r b) := by
  rw [decodeSel_assembleSelect, comparatorOf_pseudoFLIP h]
  rfl

theorem decodeSel_pseudoPASS (st : Straps) (r : Register) (b : Bool) :
    decodeSel (assembleSelect st r (pseudoPASS b)) = .pass (feedbackBit st r b) := by
  rw [decodeSel_assembleSelect, comparatorOf_of_thrRaw_zero st rfl]
  rfl

/-! ### ROT -/

/-- Committing the bit that already stands lowest changes nothing (rule R52). -/
theorem commit_bit0 (rot : Register) : commit rot (rot.getLsbD 0) = rot := by
  apply BitVec.eq_of_getLsbD_eq
  intro i hi
  rw [commit_getLsbD rot _ i hi]
  split
  · next h => rw [h]
  · rfl

/-- Shifting in bit 7 is the rotate itself (rule R51). -/
theorem commit_rotl8_bit7 (r : Register) : commit (rotl8 r) (r.getLsbD 7) = rotl8 r := by
  have hbit : (rotl8 r).getLsbD 0 = r.getLsbD 7 := rotl8_getLsbD r 0 (by decide)
  rw [← hbit, commit_bit0]

theorem feedbackBit_int {st : Straps} (h : st.fbSel = .int) (r : Register) (fbExt : Bool) :
    feedbackBit st r fbExt = r.getLsbD 7 := by
  simp only [feedbackBit, h]

/-- PASS shifts in the feedback bit. -/
theorem edgeBit_pseudoPASS (st : Straps) (r : Register) (b : Bool) :
    edgeBit st r (pseudoPASS b) = feedbackBit st r b := by
  rw [edgeBit, comparatorOf_of_thrRaw_zero st rfl]
  rfl

/-- PASS with internal feedback is a pure rotate, whatever `fb_ext` is. -/
theorem edgeValue_pseudoPASS_int {st : Straps} (h : st.fbSel = .int) (r : Register) (b : Bool) :
    edgeValue st r (pseudoPASS b) = rotl8 r := by
  rw [edgeValue_eq, edgeBit_pseudoPASS, feedbackBit_int h, commit_rotl8_bit7]

theorem pseudoROT_int {st : Straps} (h : st.fbSel = .int) : pseudoROT st = some (pseudoPASS false) := by
  simp only [pseudoROT, h]

theorem pseudoROT_ext {st : Straps} (h : st.fbSel = .ext) : pseudoROT st = none := by
  simp only [pseudoROT, h]

/-- Settles O9: the forces and thresholds of the pseudo-statements select their arms, and with internal feedback PASS
puts bit 7 back. -/
theorem pseudoStatementsReachTheirArms : Obligations.PseudoStatementsReachTheirArms := by
  refine ⟨fun st r b hlegal => ⟨⟨_, decodeSel_pseudoSETHI st r⟩, ⟨_, decodeSel_pseudoSETLO st r⟩,
    ⟨_, decodeSel_pseudoFLIP (Straps.sampleW_of_legal hlegal) r b⟩, ⟨_, decodeSel_pseudoPASS st r b⟩,
    fun hint => ⟨pseudoROT_int hint, edgeValue_pseudoPASS_int hint r false⟩, pseudoROT_ext⟩, rfl, rfl,
    fun b => ?words⟩
  cases b <;> exact ⟨rfl, rfl⟩

end Sys2Proof.Machine
end

section
/-! Rule R44's table against the decoder: each row hits exactly the select words its arm is decoded from. -/

namespace Sys2Proof.Machine
open Sys2Proof.Laws (rowOf)

/-- The rows are disjoint and cover the select words: the one that hits is that of the arm decoded. -/
theorem rows_hitting_eq (w : SelectWord) : (selRows.filter (·.hits w)).map some = [rowOf (decodeSel w)] := by
  revert w; decide

/-- A row hits a word exactly where the decode gives its arm. -/
theorem hits_iff_rowOf_decodeSel (row : SelRow) (hrow : row ∈ selRows) (w : SelectWord) :
    w &&& row.maskBits = row.matchBits ↔ rowOf (decodeSel w) = some row := by
  have hmem : row ∈ selRows.filter (·.hits w) ↔ some row ∈ [rowOf (decodeSel w)] := by
    rw [← rows_hitting_eq, List.mem_map_of_injective (Option.some_injective _)]
  rw [List.mem_filter, List.mem_singleton] at hmem
  rw [SelRow.hits, beq_iff_eq, and_iff_right hrow] at hmem
  exact hmem.trans eq_comm

/-! ### The operations of each row -/

theorem rowOf_eq_rowSETHI_iff (i : Instr) : rowOf i = some rowSETHI ↔ ∃ fl lt fb, i = .sethi fl lt fb := by
  cases i <;> simp [rowOf, rowSETHI, rowSETLO, rowFLIP, rowPASS]

theorem rowOf_eq_rowSETLO_iff (i : Instr) : rowOf i = some rowSETLO ↔ ∃ lt fb, i = .setlo lt fb := by
  cases i <;> simp [rowOf, rowSETHI, rowSETLO, rowFLIP, rowPASS]

theorem rowOf_eq_rowFLIP_iff (i : Instr) : rowOf i = some rowFLIP ↔ ∃ fb, i = .flip fb := by
  cases i <;> simp [rowOf, rowSETHI, rowSETLO, rowFLIP, rowPASS]

theorem rowOf_eq_rowPASS_iff (i : Instr) : rowOf i = some rowPASS ↔ ∃ fb, i = .pass fb := by
  cases i <;> simp [rowOf, rowSETHI, rowSETLO, rowFLIP, rowPASS]

/-- The bit that enters, as the truth vector of spec/95_test_vectors.md section 2.2. -/
theorem nextBit_eq_truthVector (w : SelectWord) :
    nextBit (w.getLsbD 3) (w.getLsbD 2) (w.getLsbD 1) (w.getLsbD 0) = (0xFF06 : Nat).testBit w.toNat := by
  revert w; decide

/-- Settles O2: the row that hits a word is the row of the arm decoded from it. -/
theorem muxDecodeIsTheTable : Obligations.MuxDecodeIsTheTable := by
  intro w
  refine ⟨?one, ?sethi, ?setlo, ?flip, ?pass, nextBit_eq_truthVector w⟩
  case one => simpa only [List.length_map, List.length_singleton] using congrArg List.length (rows_hitting_eq w)
  case sethi => exact (hits_iff_rowOf_decodeSel rowSETHI (by decide) w).trans (rowOf_eq_rowSETHI_iff _)
  case setlo => exact (hits_iff_rowOf_decodeSel rowSETLO (by decide) w).trans (rowOf_eq_rowSETLO_iff _)
  case flip => exact (hits_iff_rowOf_decodeSel rowFLIP (by decide) w).trans (rowOf_eq_rowFLIP_iff _)
  case pass => exact (hits_iff_rowOf_decodeSel rowPASS (by decide) w).trans (rowOf_eq_rowPASS_iff _)

end Sys2Proof.Machine
end

section
/-! The three stages of `Step`: the bit that enters (rule R50), the rotate (rule R51) and the commit (rule R52). -/

namespace Sys2Proof.Machine

/-! ### The bit that enters -/

@[simp] theorem nextBit_forceHigh (fl lt fb : Bool) : nextBit true fl lt fb = true := rfl
@[simp] theorem nextBit_forceLow (lt fb : Bool) : nextBit false true lt fb = false := rfl
@[simp] theorem nextBit_invert (fb : Bool) : nextBit false false true fb = !fb := rfl
@[simp] theorem nextBit_carry (fb : Bool) : nextBit false false false fb = fb := rfl

/-- Settles O10: each level of the priority is an equation of its own. -/
theorem nextBitPriority : Obligations.NextBitPriority :=
  ⟨nextBit_forceHigh, nextBit_forceLow, nextBit_invert, nextBit_carry⟩

/-! ### The rotate -/

/-- Bit `i` comes from the place below it, around the ring of eight. -/
theorem rotl8_getLsbD_ring (r : Register) {i : Nat} (hi : i < 8) :
    (rotl8 r).getLsbD i = r.getLsbD ((i + 7) % 8) := by
  rw [rotl8_getLsbD r i hi]
  split
  · next h => rw [h]
  · next h => rw [show (i + 7) % 8 = i - 1 by omega]

theorem rotl8_getLsbD_of_pos (r : Register) {i : Nat} (h1 : 1 ≤ i) (h7 : i ≤ 7) :
    (rotl8 r).getLsbD i = r.getLsbD (i - 1) := by
  rw [rotl8_getLsbD r i (Nat.lt_succ_of_le h7), if_neg (Nat.ne_of_gt h1)]

theorem rotl8_getLsbD_zero (r : Register) : (rotl8 r).getLsbD 0 = r.getLsbD 7 :=
  rotl8_getLsbD r 0 (by decide)

theorem rotl8_iterate_getLsbD (k : Nat) (r : Register) {i : Nat} (hi : i < 8) :
    (rotl8^[k] r).getLsbD i = r.getLsbD ((i + 7 * k) % 8) := by
  induction k generalizing r with
  | zero => simp [Nat.mod_eq_of_lt hi]
  | succ k ih =>
    rw [Function.iterate_succ_apply, ih, rotl8_getLsbD_ring r (Nat.mod_lt _ (by decide)), Nat.mod_add_mod,
      Nat.mul_succ, Nat.add_assoc]

/-- Eight places around the ring of eight are none. -/
theorem rotl8_iterate_eight (r : Register) : rotl8^[8] r = r := by
  apply BitVec.eq_of_getLsbD_eq
  intro i hi
  rw [rotl8_iterate_getLsbD 8 r hi, Nat.add_mul_mod_self_right, Nat.mod_eq_of_lt hi]

/-- The ring's places are the eight places, in another order. -/
theorem onesCount_rotl8 (r : Register) : onesCount (rotl8 r) = onesCount r := by
  have hplaces : ((List.range 8).map fun i => (i + 7) % 8).Perm (List.range 8) := by decide
  have hbits : ∀ i ∈ List.range 8, (rotl8 r).getLsbD i = true ↔ r.getLsbD ((i + 7) % 8) = true := by
    intro i hi
    rw [rotl8_getLsbD_ring r (List.mem_range.1 hi)]
  calc onesCount (rotl8 r) = (List.range 8).countP fun i => r.getLsbD ((i + 7) % 8) := List.countP_congr hbits
    _ = ((List.range 8).map fun i => (i + 7) % 8).countP fun i => r.getLsbD i := List.countP_map.symm
    _ = onesCount r := hplaces.countP_eq _

/-- The rule's formula on numbers, where the mask drops bit 8 of the shifted value. -/
theorem rotl8_toNat (r : Register) :
    (rotl8 r).toNat = ((r.toNat <<< 1) ||| (r.toNat >>> 7)) &&& 0xFF := by
  have hr : r.toNat < 2 ^ 8 := r.isLt
  have hlow : r.toNat >>> 7 < 2 ^ 8 := Nat.lt_of_le_of_lt (Nat.shiftRight_le _ _) hr
  rw [show (0xFF : Nat) = 2 ^ 8 - 1 from rfl, Nat.and_two_pow_sub_one_eq_mod, Nat.or_mod_two_pow,
    Nat.mod_eq_of_lt hlow]
  simp only [rotl8, BitVec.toNat_or, BitVec.toNat_shiftLeft, BitVec.toNat_ushiftRight]

/-- Settles O11: the rotate moves the bits around a ring of eight places. -/
theorem rotateIsCircular : Obligations.RotateIsCircular :=
  ⟨fun r => ⟨rotl8_toNat r, fun _ h1 h7 => rotl8_getLsbD_of_pos r h1 h7, rotl8_getLsbD_zero r, onesCount_rotl8 r,
    rotl8_iterate_eight r⟩, rfl, rfl, rfl, rfl, rfl⟩

/-! ### The commit -/

theorem commit_getLsbD_zero (rot : Register) (nb : Bool) : (commit rot nb).getLsbD 0 = nb :=
  commit_getLsbD rot nb 0 (by decide)

theorem commit_getLsbD_of_pos (rot : Register) (nb : Bool) {i : Nat} (h1 : 1 ≤ i) (h7 : i ≤ 7) :
    (commit rot nb).getLsbD i = rot.getLsbD i := by
  rw [commit_getLsbD rot nb i (Nat.lt_succ_of_le h7), if_neg (Nat.ne_of_gt h1)]

theorem commit_toNat (rot : Register) (nb : Bool) : (commit rot nb).toNat = (rot.toNat &&& 0xFE) ||| nb.toNat := by
  cases nb <;> simp [commit]

/-- Settles O12: bit 0 is the bit committed and the others are those of the rotate. -/
theorem commitReplacesTheLowBit : Obligations.CommitReplacesTheLowBit :=
  ⟨fun rot nb => ⟨commit_toNat rot nb, commit_getLsbD_zero rot nb, fun _ h1 h7 => commit_getLsbD_of_pos rot nb h1 h7,
    commit_bit0 rot⟩, rfl, rfl⟩

/-- A Register is a commit onto `rot` when it agrees with `rot` above bit 0. -/
theorem commit_eq_of_getLsbD {rot r : Register} {nb : Bool} (h0 : r.getLsbD 0 = nb)
    (habove : ∀ i, 1 ≤ i → i ≤ 7 → r.getLsbD i = rot.getLsbD i) : commit rot nb = r := by
  apply BitVec.eq_of_getLsbD_eq
  intro i hi
  rw [commit_getLsbD rot nb i hi]
  split
  · next h => rw [h, h0]
  · next h => exact (habove i (Nat.one_le_iff_ne_zero.2 h) (Nat.le_of_lt_succ hi)).symm

/-- The number of 1 bits, with bit 0 counted apart. -/
theorem onesCount_eq_bit0_add (r : Register) :
    onesCount r = (r.getLsbD 0).toNat + (List.range' 1 7).countP fun i => r.getLsbD i := by
  rw [onesCount, show List.range 8 = 0 :: List.range' 1 7 from rfl, List.countP_cons, Nat.add_comm]
  cases r.getLsbD 0 <;> rfl

/-- A commit exchanges bit 0 and no other in the number of 1 bits. -/
theorem onesCount_commit (rot : Register) (nb : Bool) :
    onesCount (commit rot nb) + (rot.getLsbD 0).toNat = onesCount rot + nb.toNat := by
  have habove : ((List.range' 1 7).countP fun i => (commit rot nb).getLsbD i) =
      (List.range' 1 7).countP fun i => rot.getLsbD i := by
    apply List.countP_congr
    intro i hi
    obtain ⟨h1, h7⟩ := List.mem_range'_1.1 hi
    rw [commit_getLsbD_of_pos rot nb h1 (Nat.le_of_lt_succ h7)]
  rw [onesCount_eq_bit0_add (commit rot nb), onesCount_eq_bit0_add rot, habove, commit_getLsbD_zero]
  omega

end Sys2Proof.Machine
end

section
/-! `Step` as `{r[6:0], nb}` (rule R53), and its laws (rule R58). -/

namespace Sys2Proof.Machine

/-! ### The value written as a concatenation -/

/-- The rotate's own bit 0 is gone after a commit: what is left of `r` is `r[6:0]`. -/
theorem commit_rotl8_eq_append (r : Register) (nb : Bool) :
    commit (rotl8 r) nb = r.extractLsb' 0 7 ++ BitVec.ofBool nb := by
  apply commit_eq_of_getLsbD
  case h0 => exact BitVec.getLsbD_append.trans (by simp)
  case habove =>
    intro i h1 h7
    have hplace : i - 1 < 7 := by omega
    have hi : i ≠ 0 := Nat.ne_of_gt h1
    rw [rotl8_getLsbD_of_pos r h1 h7]
    exact BitVec.getLsbD_append.trans (by simp [hplace, hi])

theorem commit_rotl8_getLsbD_of_pos (r : Register) (nb : Bool) {i : Nat} (h1 : 1 ≤ i) (h7 : i ≤ 7) :
    (commit (rotl8 r) nb).getLsbD i = r.getLsbD (i - 1) := by
  rw [commit_getLsbD_of_pos _ nb h1 h7, rotl8_getLsbD_of_pos r h1 h7]

/-- Bit 7 is not among the bits that a concatenation onto `r[6:0]` keeps. -/
theorem extractLsb'_withBit7 (b : Bool) (r : Register) :
    (withBit7 b r).extractLsb' 0 7 = r.extractLsb' 0 7 :=
  BitVec.extractLsb'_append_eq_right

/-! ### The bit that enters, and what it depends on -/

/-- A force makes the comparator irrelevant. -/
theorem nextBit_of_forced {fh fl : Bool} (h : fh = true ∨ fl = true) (lt lt' fb : Bool) :
    nextBit fh fl lt fb = nextBit fh fl lt' fb := by
  rcases h with rfl | rfl
  · rfl
  · cases fh <;> rfl

theorem seqStep_getLsbD_zero (r : Register) (fh fl : Bool) (thr rnd : Sample) (fb : Bool) :
    (seqStep r fh fl thr rnd fb).getLsbD 0 = nextBit fh fl (comparator rnd thr) fb :=
  commit_getLsbD_zero _ _

theorem seqStep_eq_append (r : Register) (fh fl : Bool) (thr rnd : Sample) (fb : Bool) :
    seqStep r fh fl thr rnd fb = r.extractLsb' 0 7 ++ BitVec.ofBool (nextBit fh fl (comparator rnd thr) fb) :=
  commit_rotl8_eq_append _ _

/-- `Step` reads `r[7]` only as the feedback bit it is handed. -/
theorem seqStep_withBit7 (b : Bool) (r : Register) (fh fl : Bool) (thr rnd : Sample) (fb : Bool) :
    seqStep (withBit7 b r) fh fl thr rnd fb = seqStep r fh fl thr rnd fb := by
  rw [seqStep_eq_append, seqStep_eq_append, extractLsb'_withBit7]

/-- `Step` reads the threshold and the draw only through the comparator, and not at all under a force. -/
theorem seqStep_congr_samples (r : Register) {fh fl : Bool} {thr rnd thr' rnd' : Sample} (fb : Bool)
    (h : comparator rnd' thr' = comparator rnd thr ∨ fh = true ∨ fl = true) :
    seqStep r fh fl thr' rnd' fb = seqStep r fh fl thr rnd fb := by
  have hbit : nextBit fh fl (comparator rnd' thr') fb = nextBit fh fl (comparator rnd thr) fb := by
    rcases h with hlt | hforced
    · rw [hlt]
    · exact nextBit_of_forced hforced _ _ fb
  rw [seqStep, seqStep, hbit]

/-- Settles O13: all the laws are read off `{r[6:0], nb}`. -/
theorem stepLaws : Obligations.StepLaws := fun r fh fl thr rnd fb =>
  ⟨seqStep_eq_append r fh fl thr rnd fb, fun _ h1 h7 => commit_rotl8_getLsbD_of_pos r _ h1 h7,
    seqStep_getLsbD_zero r fh fl thr rnd fb, Nat.le_of_lt_succ (BitVec.isLt _),
    fun b => seqStep_withBit7 b r fh fl thr rnd fb, fun _ _ h => seqStep_congr_samples r fb h⟩

end Sys2Proof.Machine
end

section
/-! The four arms of the priority mux (rules R54 to R57): the select words of each, and the bit each shifts in. -/

namespace Sys2Proof.Machine

/-! ### The write of each arm -/

theorem exec_sethi (fl lt fb : Bool) (s : State) :
    exec (.sethi fl lt fb) s = .next { s with R := commit (rotl8 s.R) true } := rfl
theorem exec_setlo (lt fb : Bool) (s : State) :
    exec (.setlo lt fb) s = .next { s with R := commit (rotl8 s.R) false } := rfl
theorem exec_flip (fb : Bool) (s : State) :
    exec (.flip fb) s = .next { s with R := commit (rotl8 s.R) (!fb) } := rfl
theorem exec_pass (fb : Bool) (s : State) :
    exec (.pass fb) s = .next { s with R := commit (rotl8 s.R) fb } := rfl

/-! ### `Step` at each level of the priority -/

@[simp] theorem seqStep_forceHigh (r : Register) (fl : Bool) (thr rnd : Sample) (fb : Bool) :
    seqStep r true fl thr rnd fb = commit (rotl8 r) true := rfl

@[simp] theorem seqStep_forceLow (r : Register) (thr rnd : Sample) (fb : Bool) :
    seqStep r false true thr rnd fb = commit (rotl8 r) false := rfl

theorem seqStep_invert {thr rnd : Sample} (h : rnd.toNat < thr.toNat) (r : Register) (fb : Bool) :
    seqStep r false false thr rnd fb = commit (rotl8 r) (!fb) := by
  rw [seqStep, (comparator_eq_true_iff rnd thr).2 h, nextBit_invert]

theorem seqStep_carry {thr rnd : Sample} (h : thr.toNat ≤ rnd.toNat) (r : Register) (fb : Bool) :
    seqStep r false false thr rnd fb = commit (rotl8 r) fb := by
  have hlt : comparator rnd thr = false := decide_eq_false (Nat.not_lt.2 h)
  rw [seqStep, hlt, nextBit_carry]

/-! ### SETHI -/

theorem commit_true (rot : Register) : commit rot true = (rot &&& 0xFE#8) ||| 1#8 := rfl

/-- Settles O14: the arm and `Step` under force-high both commit a 1. -/
theorem sethiShiftsInOne : Obligations.SethiShiftsInOne := by
  refine ⟨fun w => ?select, fun s fl lt fb => ⟨?append, ?masked⟩,
    fun r fl thr rnd fb => ⟨commit_rotl8_eq_append r true, commit_getLsbD_zero _ true⟩,
    fun _ _ _ _ => ⟨seqStep_forceHigh .., seqStep_forceHigh ..⟩⟩
  case select =>
    obtain ⟨-, hsethi, -⟩ := muxDecodeIsTheTable w
    exact hsethi
  case append =>
    rw [exec_sethi, commit_rotl8_eq_append]
    rfl
  case masked => rw [exec_sethi, commit_true]

/-! ### SETLO -/

theorem commit_false (rot : Register) : commit rot false = rot &&& 0xFE#8 := BitVec.or_zero

/-- Shifting in a 0 is the plain left shift. -/
theorem commit_rotl8_false (r : Register) : commit (rotl8 r) false = r <<< 1 := by
  apply commit_eq_of_getLsbD
  case h0 => simp
  case habove =>
    intro i h1 h7
    have hi : i < 8 ∧ ¬ i < 1 := by omega
    rw [rotl8_getLsbD_of_pos r h1 h7, BitVec.getLsbD_shiftLeft]
    simp [hi]

theorem shiftLeft_one_iterate (k : Nat) (r : Register) : (fun x : Register => x <<< 1)^[k] r = r <<< k := by
  induction k with
  | zero => simp
  | succ k ih => rw [Function.iterate_succ_apply', ih, BitVec.shiftLeft_add]

/-- Eight 0 bits shifted in leave none of the old ones. -/
theorem seqStep_forceLow_iterate_eight (r : Register) (thr rnd : Sample) (fb : Bool) :
    (fun x => seqStep x false true thr rnd fb)^[8] r = 0x00#8 := by
  have hshift : (fun x => seqStep x false true thr rnd fb) = fun x : Register => x <<< 1 := funext commit_rotl8_false
  rw [hshift, shiftLeft_one_iterate, BitVec.shiftLeft_eq_zero (Nat.le_refl 8)]

/-- Settles O15: the arm and `Step` under force-low both commit a 0, which is the left shift. -/
theorem setloShiftsInZero : Obligations.SetloShiftsInZero := by
  refine ⟨fun w => ?select, fun s lt fb => ⟨?append, ?masked, ?shifted⟩,
    fun r thr rnd fb => ⟨commit_getLsbD_zero _ false, seqStep_forceLow_iterate_eight r thr rnd fb⟩,
    fun _ _ _ => ⟨seqStep_forceLow .., seqStep_forceLow .., seqStep_forceLow ..⟩⟩
  case select =>
    obtain ⟨-, -, hsetlo, -⟩ := muxDecodeIsTheTable w
    exact hsetlo
  case append =>
    rw [exec_setlo, commit_rotl8_eq_append]
    rfl
  case masked => rw [exec_setlo, commit_false]
  case shifted => rw [exec_setlo, commit_rotl8_false]

/-! ### FLIP -/

theorem one_getLsbD_of_pos {i : Nat} (h1 : 1 ≤ i) : (0x01#8).getLsbD i = false := by
  simp [BitVec.getLsbD_one, Nat.ne_of_gt h1]

/-- Committing the complement of bit 0 flips it. -/
theorem commit_not_bit0 (rot : Register) : commit rot (!rot.getLsbD 0) = rot ^^^ 0x01#8 := by
  apply commit_eq_of_getLsbD
  case h0 => simp
  case habove =>
    intro i h1 _
    rw [BitVec.getLsbD_xor, one_getLsbD_of_pos h1, Bool.xor_false]

/-- Shifting in the complement of bit 7 is the rotate with its low bit flipped. -/
theorem commit_rotl8_not_bit7 (r : Register) : commit (rotl8 r) (!r.getLsbD 7) = rotl8 r ^^^ 0x01#8 := by
  rw [← rotl8_getLsbD_zero, commit_not_bit0]

/-- The rotate brings bit 7 to the place the commit writes, so bit 7 is exchanged for its complement in the number of
1 bits. -/
theorem onesCount_seqStep_invert {thr rnd : Sample} (h : rnd.toNat < thr.toNat) (r : Register) :
    onesCount (seqStep r false false thr rnd (r.getLsbD 7)) + (r.getLsbD 7).toNat =
      onesCount r + (!r.getLsbD 7).toNat := by
  rw [seqStep_invert h, ← rotl8_getLsbD_zero, onesCount_commit, onesCount_rotl8]

/-- A threshold of 0 gives `lt = 0` (rule R42). -/
theorem comparatorOf_of_threshold_zero {st : Straps} {cw : ControlWord} (h : sat10 (sampleThreshold st cw) = 0#10) :
    comparatorOf st cw = false := by
  rw [comparatorOf, h, comparator_zero]

/-- FLIP is selected only by a comparator that answers 1. -/
theorem comparatorOf_of_decodeSel_flip {st : Straps} {r : Register} {cw : ControlWord} {fb : Bool}
    (h : decodeSel (assembleSelect st r cw) = .flip fb) : comparatorOf st cw = true := by
  rw [decodeSel_assembleSelect] at h
  cases hlt : comparatorOf st cw with
  | true => rfl
  | false =>
    cases hfh : cw.fh <;> cases hfl : cw.fl <;> simp [hfh, hfl, hlt] at h

/-- Settles O16: the arm and `Step` with a draw below the threshold both commit the complement of the feedback. -/
theorem flipShiftsInTheComplement : Obligations.FlipShiftsInTheComplement := by
  refine ⟨fun w => ?select, fun s fb => ?append,
    fun r thr rnd fb hlt => ⟨?low, ?internal, fun h7 => ?up, fun h7 => ?down⟩,
    fun st r cw fb hthr => ?never, rfl, rfl, rfl⟩
  case select =>
    obtain ⟨-, -, -, hflip, -⟩ := muxDecodeIsTheTable w
    exact hflip
  case append => rw [exec_flip, commit_rotl8_eq_append]
  case low => rw [seqStep_invert hlt, commit_getLsbD_zero]
  case internal => rw [seqStep_invert hlt, commit_rotl8_not_bit7]
  case up =>
    have hcount := onesCount_seqStep_invert hlt r
    rw [h7] at hcount ⊢
    exact hcount
  case down =>
    have hcount := onesCount_seqStep_invert hlt r
    rw [h7] at hcount ⊢
    exact hcount
  case never =>
    intro hflip
    have hlt : comparatorOf st cw = true := comparatorOf_of_decodeSel_flip hflip
    simp [comparatorOf_of_threshold_zero hthr] at hlt

/-! ### PASS -/

/-- With both forces off and the comparator at 0 the arm is PASS. -/
theorem decodeSel_assembleSelect_pass {st : Straps} (r : Register) {cw : ControlWord} (hfh : cw.fh = false)
    (hfl : cw.fl = false) (hlt : comparatorOf st cw = false) :
    decodeSel (assembleSelect st r cw) = .pass (feedbackBit st r cw.fbExt) := by
  simp [decodeSel_assembleSelect, hfh, hfl, hlt]

/-- Settles O17: the arm and `Step` with a draw not below the threshold both commit the feedback. -/
theorem passShiftsInTheFeedback : Obligations.PassShiftsInTheFeedback := by
  refine ⟨fun w => ?select, fun s fb => ?append, fun r thr rnd fb hge => ⟨?low, ?internal⟩,
    fun st r cw hfh hfl hsamples => ⟨_, decodeSel_assembleSelect_pass r hfh hfl ?carries⟩, rfl⟩
  case select =>
    obtain ⟨-, -, -, -, hpass, -⟩ := muxDecodeIsTheTable w
    exact hpass
  case append => rw [exec_pass, commit_rotl8_eq_append]
  case low => rw [seqStep_carry hge, commit_getLsbD_zero]
  case internal => rw [seqStep_carry hge, commit_rotl8_bit7]
  case carries =>
    rcases hsamples with hthr | heq
    · exact comparatorOf_of_threshold_zero hthr
    · rw [comparatorOf, heq, comparator_self]

end Sys2Proof.Machine
end

section
/-! Recognised edges with internal feedback (rule R59): what each arm writes, and the period of a run of PASS edges. -/

namespace Sys2Proof.Machine

/-! ### A recognised edge, at the level of the event and of the step -/

theorem edge_of_recognises {s : State} (h : s.recognises = true) (cw : ControlWord) :
    edge cw s = recognisedEdge cw s := by
  rw [edge, if_pos h]

/-- A recognised edge writes `Step` of its samples. -/
theorem edge_R {s t : State} {cw : ControlWord} (hrec : s.recognises = true) (hedge : edge cw s = .next t) :
    t.R = edgeValue s.straps s.R cw := by
  rw [edge_of_recognises hrec, recognisedEdge_next] at hedge
  exact (congrArg State.R (Host.Outcome.next.inj hedge)).symm

/-- The step on a recognised edge takes the edge and writes `R`; the straps stay. -/
theorem step_recognised {s : State} {cw : ControlWord} {es : List Event} (hs : s.stimulus = .edge cw :: es)
    (hrec : s.recognises = true) :
    ∃ t, step s = .next t ∧ t.R = edgeValue s.straps s.R cw ∧ t.straps = s.straps ∧ t.stimulus = es := by
  have hpop : s.popEvent.recognises = true := hrec
  have hstep : step s = recognisedEdge cw s.popEvent := by
    simp only [step, nextEvent, hs, onEvent, edge_of_recognises hpop]
  exact ⟨_, hstep.trans (recognisedEdge_next cw s.popEvent), rfl, rfl, congrArg List.tail hs⟩

/-- Without gating no edge is dropped (rule R71). -/
theorem State.recognises_of_ungated {s : State} (h : s.straps.gateEvents = false) : s.recognises = true := by
  simp [State.recognises, h]

/-! ### The value each arm writes -/

/-- Committing a 1 sets bit 0. -/
theorem commit_true_eq_or (rot : Register) : commit rot true = rot ||| 0x01#8 := by
  apply commit_eq_of_getLsbD
  case h0 => simp
  case habove =>
    intro i h1 _
    rw [BitVec.getLsbD_or, one_getLsbD_of_pos h1, Bool.or_false]

section
variable {st : Straps} {cw : ControlWord} (r : Register)

theorem edgeValue_forceHigh (hfh : cw.fh = true) :
    edgeValue st r cw = rotl8 r ||| 0x01#8 := by
  rw [edgeValue_eq, edgeBit, hfh, nextBit_forceHigh, commit_true_eq_or]

theorem edgeValue_forceLow (hfh : cw.fh = false) (hfl : cw.fl = true) :
    edgeValue st r cw = rotl8 r &&& 0xFE#8 := by
  rw [edgeValue_eq, edgeBit, hfh, hfl, nextBit_forceLow, commit_false]

theorem edgeValue_flip_int (hint : st.fbSel = .int) (hfh : cw.fh = false) (hfl : cw.fl = false)
    (hlt : comparatorOf st cw = true) :
    edgeValue st r cw = rotl8 r ^^^ 0x01#8 := by
  rw [edgeValue_eq, edgeBit, hfh, hfl, hlt, nextBit_invert, feedbackBit_int hint, commit_rotl8_not_bit7]

theorem edgeValue_pass_int (hint : st.fbSel = .int) (hfh : cw.fh = false) (hfl : cw.fl = false)
    (hlt : comparatorOf st cw = false) :
    edgeValue st r cw = rotl8 r := by
  rw [edgeValue_eq, edgeBit, hfh, hfl, hlt, nextBit_carry, feedbackBit_int hint, commit_rotl8_bit7]

end

/-! ### A run of PASS edges -/

/-- Under internal feedback, without gating, each PASS edge of a run is one rotate. -/
theorem runFor_pass_edges (cws : List ControlWord) {s : State} (hs : s.stimulus = cws.map .edge)
    (hint : s.straps.fbSel = .int) (hgate : s.straps.gateEvents = false)
    (hpass : ∀ cw ∈ cws, cw.fh = false ∧ cw.fl = false ∧ comparatorOf s.straps cw = false) :
    ∃ t, runFor cws.length s = .next t ∧ t.R = rotl8^[cws.length] s.R := by
  induction cws generalizing s with
  | nil => exact ⟨s, rfl, rfl⟩
  | cons cw cws ih =>
    obtain ⟨u, hstep, hR, hstraps, hstim⟩ := step_recognised hs (State.recognises_of_ungated hgate)
    obtain ⟨hcw, hcws⟩ := List.forall_mem_cons.1 hpass
    obtain ⟨hfh, hfl, hlt⟩ := hcw
    obtain ⟨t, hrun, htR⟩ := ih hstim (hstraps ▸ hint) (hstraps ▸ hgate) (hstraps ▸ hcws)
    refine ⟨t, (runFor_succ hstep cws.length).trans hrun, ?_⟩
    rw [htR, hR, edgeValue_pass_int _ hint hfh hfl hlt, List.length_cons, Function.iterate_succ_apply]

/-- Settles O18: a recognised edge writes its arm's value, PASS's being the rotate, of which eight are the identity. -/
theorem internalFeedbackEdges : Obligations.InternalFeedbackEdges := by
  refine ⟨fun s t cw hint hrec hedge => ?arms, fun s cws hint hgate hlen hpass => ?eight⟩
  case arms =>
    rw [edge_R hrec hedge]
    refine ⟨edgeValue_forceHigh _, edgeValue_forceLow _, edgeValue_flip_int _ hint, fun hfh hfl hlt => ?pass⟩
    rw [edgeValue_pass_int _ hint hfh hfl hlt]
    exact ⟨rfl, onesCount_rotl8 s.R⟩
  case eight =>
    obtain ⟨t, hrun, hR⟩ := runFor_pass_edges cws (s := { s with stimulus := cws.map .edge }) rfl hint hgate hpass
    rw [hlen] at hrun hR
    exact ⟨t, hrun, hR.trans (rotl8_iterate_eight s.R)⟩

end Sys2Proof.Machine
end

section
/-! The linear scale of VoltageEncoder (rule R62): the line its straps draw, its floor, and the widths that hold it
(rule R68). -/

namespace Sys2Proof.Machine

/-! ### The domains of the straps -/

/-- The output range of legal straps (rule R8). -/
theorem Straps.outRange_of_legal {st : Straps} (h : st.legal = true) :
    -32768 ≤ st.encOutLo ∧ st.encOutLo ≤ st.encOutHi ∧ st.encOutHi ≤ 32767 := by
  simp only [Straps.legal, Straps.outLoLegal, Straps.outHiLegal, Bool.and_eq_true, decide_eq_true_eq] at h
  obtain ⟨⟨-, hlo, -⟩, hle, hhi⟩ := h
  exact ⟨hlo, hle, hhi⟩

theorem InSpan.value_pos (sp : InSpan) : 0 < sp.value := by
  cases sp <;> decide

/-- A register value is never beyond the span: both spans are 255 or more. -/
theorem toNat_le_inSpan (r : Register) (sp : InSpan) : (r.toNat : Int) ≤ sp.value := by
  have hr : r.toNat < 256 := r.isLt
  cases sp <;> simp only [InSpan.value] <;> omega

/-! ### The line -/

/-- What the line adds to `ENC_OUT_LO` is rule R62's quotient. -/
theorem scale_sub_outLo (st : Straps) (r : Register) :
    scale st r - st.encOutLo = r.toNat * (st.encOutHi - st.encOutLo) / st.encInSpan.value :=
  add_sub_cancel_left _ _

@[simp] theorem scale_zero (st : Straps) : scale st 0#8 = st.encOutLo := by
  simp [scale]

theorem scale_max_of_s255 {st : Straps} (h : st.encInSpan = .s255) : scale st 255#8 = st.encOutHi := by
  have hquot : (255 : Int) * (st.encOutHi - st.encOutLo) / 255 = st.encOutHi - st.encOutLo :=
    Int.mul_ediv_cancel_left _ (by decide)
  rw [← sub_left_inj, scale_sub_outLo, h]
  exact hquot

section
variable {st : Straps} (hle : st.encOutLo ≤ st.encOutHi)
include hle

theorem dividend_nonneg (r : Register) : 0 ≤ (r.toNat : Int) * (st.encOutHi - st.encOutLo) :=
  mul_nonneg (Int.natCast_nonneg _) (sub_nonneg.2 hle)

theorem scale_mono {r r' : Register} (h : r.toNat ≤ r'.toNat) : scale st r ≤ scale st r' := by
  have hdividend : (r.toNat : Int) * (st.encOutHi - st.encOutLo) ≤ r'.toNat * (st.encOutHi - st.encOutLo) :=
    mul_le_mul_of_nonneg_right (Int.ofNat_le.2 h) (sub_nonneg.2 hle)
  exact Int.add_le_add_left (Int.ediv_le_ediv (InSpan.value_pos _) hdividend) _

theorem outLo_le_scale (r : Register) : st.encOutLo ≤ scale st r := by
  rw [← sub_nonneg, scale_sub_outLo]
  exact Int.ediv_nonneg (dividend_nonneg hle r) (InSpan.value_pos _).le

/-- The line does not pass `ENC_OUT_HI`, because no register value passes the span. -/
theorem scale_le_outHi (r : Register) : scale st r ≤ st.encOutHi := by
  have hdividend : (r.toNat : Int) * (st.encOutHi - st.encOutLo) ≤ st.encInSpan.value * (st.encOutHi - st.encOutLo) :=
    mul_le_mul_of_nonneg_right (toNat_le_inSpan r _) (sub_nonneg.2 hle)
  rw [← sub_le_sub_iff_right st.encOutLo, scale_sub_outLo]
  exact Int.ediv_le_of_le_mul (InSpan.value_pos _) (hdividend.trans_eq (mul_comm _ _))

end

/-- Settles O23: floor division by a positive span, and a dividend that is 0 at 0 and the whole range at 255. -/
theorem scaleIsTheFlooredLine : Obligations.ScaleIsTheFlooredLine := by
  intro st r hlegal
  obtain ⟨-, hle, -⟩ := Straps.outRange_of_legal hlegal
  refine ⟨dividend_nonneg hle r, ?below, ?above, scale_zero st, scale_max_of_s255⟩
  case below =>
    rw [scale_sub_outLo]
    exact Int.ediv_mul_le _ (InSpan.value_pos _).ne'
  case above =>
    rw [scale_sub_outLo]
    exact Int.lt_ediv_add_one_mul_self _ (InSpan.value_pos _)

/-- A register value times a number of at most `n`. -/
theorem dividend_le {x n : Int} (r : Register) (hx : x ≤ n) (hn : 0 ≤ n) : (r.toNat : Int) * x ≤ 255 * n := by
  have hr : (r.toNat : Int) ≤ 255 := Int.ofNat_le.2 (Nat.le_of_lt_succ r.isLt)
  exact (mul_le_mul_of_nonneg_left hx (Int.natCast_nonneg _)).trans (mul_le_mul_of_nonneg_right hr hn)

/-- Settles O27: a range of at most 65535 times a value of at most 255, and a line that stays in its range. -/
theorem scalerWidths : Obligations.ScalerWidths := by
  refine ⟨fun st r hlegal => ?legal, fun st r => ?named⟩
  case legal =>
    obtain ⟨hlo, hle, hhi⟩ := Straps.outRange_of_legal hlegal
    have hspan : st.encOutHi - st.encOutLo ≤ 65535 := by omega
    have hproduct := dividend_le r hspan (by decide)
    have hge := outLo_le_scale hle r
    have hscale := scale_le_outHi hle r
    refine ⟨hproduct, by decide, ?_, ?_, ?_, hge, hscale, ?_, ?_⟩ <;> omega
  case named =>
    have hr : r.toNat < 256 := r.isLt
    simp only [Straps.encA, Straps.encB]
    omega

end Sys2Proof.Machine
end

section
/-! ENCODE (rule R64): the code of each named configuration as a number (rule R67), and the laws of the codes
(rule R66). -/

namespace Sys2Proof.Machine

/-! ### The codes of ENC-A, ENC-B and ENC-C -/

theorem clamp12_of_range {v : Int} (h0 : 0 ≤ v) (hmax : v ≤ 4095) : clamp12 v = v := by
  unfold clamp12; omega

/-- An output range within 0..4095 is not clamped. -/
theorem voltageCode_of_outRange {st : Straps} (h0 : 0 ≤ st.encOutLo) (hle : st.encOutLo ≤ st.encOutHi)
    (hmax : st.encOutHi ≤ 4095) (r : Register) : ((voltageCode st r).toNat : Int) = scale st r := by
  rw [voltageCode_toInt]
  exact clamp12_of_range (h0.trans (outLo_le_scale hle r)) ((scale_le_outHi hle r).trans hmax)

theorem voltageCode_encA_toNat (st : Straps) (r : Register) :
    (voltageCode st.encA r).toNat = r.toNat * 4095 / 255 := by
  have h : ((voltageCode st.encA r).toNat : Int) = 0 + r.toNat * (4095 - 0) / 255 :=
    voltageCode_of_outRange (st := st.encA) le_rfl (show (0 : Int) ≤ 4095 by decide) le_rfl r
  omega

theorem voltageCode_encB_toNat (st : Straps) (r : Register) :
    (voltageCode st.encB r).toNat = r.toNat * 4095 / 256 := by
  have h : ((voltageCode st.encB r).toNat : Int) = 0 + r.toNat * (4095 - 0) / 256 :=
    voltageCode_of_outRange (st := st.encB) le_rfl (show (0 : Int) ≤ 4095 by decide) le_rfl r
  omega

theorem voltageCode_encC_toNat (st : Straps) (r : Register) :
    (voltageCode st.encC r).toNat = 15 + r.toNat * 4064 / 255 := by
  have h : ((voltageCode st.encC r).toNat : Int) = 15 + r.toNat * (4079 - 15) / 255 :=
    voltageCode_of_outRange (st := st.encC) (show (0 : Int) ≤ 15 by decide) (show (15 : Int) ≤ 4079 by decide)
      (show (4079 : Int) ≤ 4095 by decide) r
  omega

/-- The slope of ENC-A is `273/17`, that is 16 and a seventeenth. -/
theorem voltageCode_encA_closedForm (st : Straps) (r : Register) :
    (voltageCode st.encA r).toNat = 16 * r.toNat + r.toNat / 17 := by
  rw [voltageCode_encA_toNat]; omega

/-- The slope of ENC-B is 16 less `1/256`, so a register value above 0 loses less than 1 in all. -/
theorem voltageCode_encB_closedForm (st : Straps) (r : Register) :
    (voltageCode st.encB r).toNat = if r.toNat = 0 then 0 else 16 * r.toNat - 1 := by
  have hr : r.toNat < 256 := r.isLt
  rw [voltageCode_encB_toNat]
  split <;> omega

/-- Settles O22: the code fits its 12 bits, and ENCODE writes it where no state of the block stands; the
rule's examples are evaluated. -/
theorem encodeIsTheClampedScale : Obligations.EncodeIsTheClampedScale :=
  ⟨fun _ => rfl, voltageCode_toInt, fun s r => ⟨_, exec_decodeEnc r s, rfl, rfl, rfl, rfl, rfl, rfl, rfl⟩,
    fun _ => ⟨rfl, rfl, rfl, rfl, rfl, rfl, rfl, rfl⟩⟩

theorem toNat_add_one {r : Register} (h : r.toNat < 255) : (r + 1).toNat = r.toNat + 1 :=
  BitVec.toNat_add_of_lt (Nat.add_lt_add_right h 1)

/-- Settles O26: the steps and the end values are read off the closed forms. -/
theorem encodeClosedForms : Obligations.EncodeClosedForms := by
  refine ⟨fun st r => ⟨voltageCode_encA_closedForm st r, voltageCode_encA_toNat st r,
    voltageCode_encB_closedForm st r, voltageCode_encB_toNat st r, ?below, voltageCode_encC_toNat st r⟩,
    fun st r hr => ⟨?stepA, ?stepB, ?stepC⟩,
    fun _ => ⟨rfl, rfl, rfl, rfl, rfl, rfl, rfl, rfl, rfl, rfl, rfl, rfl⟩⟩
  case below =>
    have hr : r.toNat < 256 := r.isLt
    rw [voltageCode_encB_toNat]
    omega
  case stepA =>
    rw [voltageCode_encA_closedForm, voltageCode_encA_closedForm, toNat_add_one hr]
    split <;> omega
  case stepB =>
    rw [voltageCode_encB_closedForm, voltageCode_encB_closedForm, toNat_add_one hr, if_neg (Nat.succ_ne_zero _)]
    split_ifs <;> omega
  case stepC =>
    rw [voltageCode_encC_toNat, voltageCode_encC_toNat, toNat_add_one hr]
    omega

/-! ### The laws of the codes -/

/-- A floored line of slope at least `k` separates different values by at least `k`. -/
theorem mul_div_add_le_of_lt {a b m d k : Nat} (hd : 0 < d) (hslope : k * d ≤ m) (h : a < b) :
    a * m / d + k ≤ b * m / d := by
  have hline : a * m + k * d ≤ b * m := by
    calc a * m + k * d ≤ a * m + m := Nat.add_le_add_left hslope _
      _ = (a + 1) * m := (Nat.succ_mul a m).symm
      _ ≤ b * m := Nat.mul_le_mul_right m h
  rw [← Nat.add_mul_div_right _ _ hd]
  exact Nat.div_le_div_right hline

theorem voltageCode_mono {st : Straps} (hle : st.encOutLo ≤ st.encOutHi) {r r' : Register}
    (h : r.toNat ≤ r'.toNat) : (voltageCode st r).toNat ≤ (voltageCode st r').toNat := by
  rw [← Int.ofNat_le, voltageCode_toInt, voltageCode_toInt]
  exact clamp12_mono (scale_mono hle h)

/-- Legal straps whose line leaves the 12-bit codes at its upper end. -/
def overRangeStraps : Straps := { Straps.default with encOutHi := 32767 }

/-- Settles O25: the scale and the clamp are monotone, the named lines have slope 15 or more, and `overRangeStraps`
gives 254 and 255 the clamp's 4095. -/
theorem encodeLaws : Obligations.EncodeLaws := by
  refine ⟨fun st r => Nat.le_of_lt_succ (BitVec.isLt _), fun st r r' hlegal h => ?mono,
    fun s r => ⟨_, exec_decodeEnc r s, exec_decodeEnc r _⟩, fun st r r' h => ?separated,
    overRangeStraps, 254#8, 255#8, by decide⟩
  case mono =>
    obtain ⟨-, hle, -⟩ := Straps.outRange_of_legal hlegal
    exact voltageCode_mono hle h
  case separated =>
    simp only [voltageCode_encA_toNat, voltageCode_encB_toNat, voltageCode_encC_toNat, Nat.add_assoc 15]
    exact ⟨mul_div_add_le_of_lt (by decide) (by decide) h, mul_div_add_le_of_lt (by decide) (by decide) h,
      Nat.add_le_add_left (mul_div_add_le_of_lt (by decide) (by decide) h) 15⟩

end Sys2Proof.Machine
end

section
/-! The word passed to `DacSend` (rule R65). -/

namespace Sys2Proof.Machine

theorem word16_low (c : Code) : (word16 c).extractLsb' 0 12 = c := by
  apply BitVec.eq_of_toNat_eq
  rw [BitVec.extractLsb'_toNat, word16_toNat, Nat.shiftRight_zero, Nat.mod_eq_of_lt c.isLt]

/-- A code is below `2^12`, so nothing of it stands above bit 11. -/
theorem word16_high (c : Code) : (word16 c).extractLsb' 12 4 = 0#4 := by
  apply BitVec.eq_of_toNat_eq
  rw [BitVec.extractLsb'_toNat, word16_toNat, Nat.shiftRight_eq_div_pow, Nat.div_eq_of_lt c.isLt]
  rfl

/-- A recognised edge sends one word, the code of the Register it wrote (rule R70). -/
theorem edge_dacTrace {s t : State} {cw : ControlWord} (hrec : s.recognises = true) (hedge : edge cw s = .next t) :
    t.dacTrace = s.dacTrace ++ [word16 (voltageCode s.straps t.R)] := by
  rw [edge_of_recognises hrec, recognisedEdge_next] at hedge
  rw [← Host.Outcome.next.inj hedge]

/-- Settles O28: the word is the number the code is, and a recognised edge sends the word of the value it wrote. -/
theorem wordCarriesTheCode : Obligations.WordCarriesTheCode :=
  ⟨fun c => ⟨word16_low c, word16_high c, word16_toNat c ▸ Nat.le_of_lt_succ c.isLt⟩,
    fun _ _ _ hrec hedge => edge_dacTrace hrec hedge, rfl⟩

end Sys2Proof.Machine
end

section
/-! The step on each event (rules R70 to R72, R87) and between events (rule R74). -/

namespace Sys2Proof.Machine

/-! ### The event a step takes -/

theorem step_of_nil {s : State} (h : s.stimulus = []) : step s = .next s := by
  simp only [step, nextEvent, h]

theorem step_of_cons {s : State} {e : Event} {es : List Event} (h : s.stimulus = e :: es) :
    step s = onEvent e { s with stimulus := es } := by
  simp only [step, nextEvent, h, State.popEvent, List.tail_cons]

/-- Settles O35: an idle step answers the state it was given, and a run of idle steps is that step repeated. -/
theorem idleHoldsTheState : Obligations.IdleHoldsTheState := by
  intro s k hidle
  induction k with
  | zero => exact runFor_zero s
  | succ k ih => exact (runFor_succ (step_of_nil hidle) k).trans ih

/-! ### A dropped edge -/

theorem State.not_recognises_of_busy {s : State} (hgate : s.straps.gateEvents = true) (hbusy : s.busy = true) :
    s.recognises = false := by
  simp [State.recognises, hgate, hbusy]

theorem edge_of_not_recognises {s : State} (h : s.recognises = false) (cw : ControlWord) : edge cw s = .next s := by
  simp [edge, h]

theorem step_dropped {s : State} {cw : ControlWord} {es : List Event} (hs : s.stimulus = .edge cw :: es)
    (hrec : s.recognises = false) : step s = .next { s with stimulus := es } := by
  have hrest : State.recognises { s with stimulus := es } = false := hrec
  exact (step_of_cons hs).trans (edge_of_not_recognises hrest cw)

/-- Settles O31: under gating `busy` closes the edge mask, and a closed mask leaves all but the stimulus. -/
theorem droppedEdgeHasNoEffect : Obligations.DroppedEdgeHasNoEffect :=
  ⟨fun _ _ _ hs hgate hbusy => step_dropped hs (State.not_recognises_of_busy hgate hbusy),
    fun _ hgate => State.recognises_of_ungated hgate⟩

/-- A dropped edge leaves the mask closed, so the edges behind it are dropped as well. -/
theorem runFor_dropped_edges (cws : List ControlWord) {s : State} (hs : s.stimulus = cws.map .edge)
    (hrec : s.recognises = false) : runFor cws.length s = .next { s with stimulus := [] } := by
  induction cws generalizing s with
  | nil =>
    have hempty : [] = s.stimulus := hs.symm
    rw [hempty]
    exact runFor_zero s
  | cons cw cws ih =>
    have hstep : step s = .next { s with stimulus := cws.map .edge } := step_dropped hs hrec
    exact (runFor_succ hstep cws.length).trans (ih rfl hrec)

/-! ### Done -/

/-- `Done` writes `busy` and no other field. -/
theorem State.done_eq (s : State) :
    s.done = { s with busy := if s.straps.gateEvents then false else s.busy } := by
  unfold State.done
  split <;> rfl

theorem step_done {s : State} {es : List Event} (hs : s.stimulus = .done :: es) :
    step s = .next { s with stimulus := es, busy := if s.straps.gateEvents then false else s.busy } :=
  (step_of_cons hs).trans (congrArg Host.Outcome.next (State.done_eq _))

/-- With `busy` down there is nothing for `Done` to clear. -/
theorem step_done_of_not_busy {s : State} {es : List Event} (hs : s.stimulus = .done :: es) (hbusy : s.busy = false) :
    step s = .next { s with stimulus := es } := by
  rw [step_done hs, hbusy, ite_self]

/-- With gating, `Done` opens the edge mask. -/
theorem State.done_recognises {s : State} (hgate : s.straps.gateEvents = true) : s.done.recognises = true := by
  have hbusy : s.done.busy = false := by rw [State.done_busy, hgate, Bool.not_true, Bool.and_false]
  exact State.recognises_of_not_busy hbusy

/-- Settles O32: `Done` writes `busy` alone, `busy` down opens the mask, and until then every edge is dropped. -/
theorem doneClearsBusy : Obligations.DoneClearsBusy :=
  ⟨fun _ _ hs => step_done hs, fun _ _ hs hbusy => step_done_of_not_busy hs hbusy,
    fun s hgate => ⟨State.done_recognises hgate, State.done_R s⟩,
    fun s cws hgate hbusy =>
      runFor_dropped_edges cws (s := { s with stimulus := cws.map .edge }) rfl
        (State.not_recognises_of_busy hgate hbusy)⟩

/-! ### A recognised edge -/

/-- The whole state a recognised edge leaves. -/
theorem step_recognised_next {s : State} {cw : ControlWord} {es : List Event} (hs : s.stimulus = .edge cw :: es)
    (hrec : s.recognises = true) :
    step s = .next { s with
      stimulus := es
      R := edgeValue s.straps s.R cw
      busy := s.straps.gateEvents || s.busy
      encResult := none
      dacTrace := s.dacTrace ++ [word16 (voltageCode s.straps (edgeValue s.straps s.R cw))]
      sent := s.sent ++ [word16 (voltageCode s.straps (edgeValue s.straps s.R cw))]
      sampleCount := s.sampleCount + 1 } := by
  have hrest : State.recognises { s with stimulus := es } = true := hrec
  rw [step_of_cons hs, onEvent, edge_of_recognises hrest, recognisedEdge_next]

theorem feedbackBit_eq_ite (st : Straps) (r : Register) (fbExt : Bool) :
    feedbackBit st r fbExt = if st.fbSel = .int then r.getLsbD 7 else fbExt := by
  cases h : st.fbSel <;> simp [feedbackBit, h]

/-- `Step` of samples that fit: the ports hand the raw values to the clamps. -/
theorem edgeValue_of_fits {st : Straps} {cw : ControlWord} (hfits : cw.fits st.sampleW = true) (r : Register) :
    edgeValue st r cw = seqStep r cw.fh cw.fl (sat10 cw.thrRaw) (sat10 cw.rndRaw)
      (if st.fbSel = .int then r.getLsbD 7 else cw.fbExt) := by
  obtain ⟨hthr, hrnd⟩ := (ControlWord.fits_iff ..).1 hfits
  rw [edgeValue, sampleThreshold_of_fits hthr, sampleRandom_of_fits hrnd, feedbackBit_eq_ite]

/-- Settles O30: the edge is recognised, and `Step` of its samples is the value written and the value encoded. -/
theorem recognisedEdgeEffect : Obligations.RecognisedEdgeEffect := by
  intro s cw es hs hfits hopen fb new
  have hrec : s.recognises = true := hopen.elim State.recognises_of_ungated State.recognises_of_not_busy
  have hnew : edgeValue s.straps s.R cw = new := edgeValue_of_fits hfits s.R
  refine ⟨_, step_recognised_next hs hrec, hnew, ?trace, ?busy, rfl⟩
  case trace => rw [hnew]
  case busy => cases s.straps.gateEvents <;> rfl

end Sys2Proof.Machine
end

section
/-! The machine against rule R73's recurrence: each event carries a state that agrees with a view of the run to one that
agrees with the view after that event. -/

namespace Sys2Proof.Machine

/-! ### The recurrence on an edge -/

theorem RunView.after_edge_dropped {st : Straps} {v : RunView} (h : (st.gateEvents && v.busy) = true)
    (cw : ControlWord) : v.after st (.edge cw) = v :=
  if_pos h

theorem RunView.after_edge_recognised {st : Straps} {v : RunView} (h : (st.gateEvents && v.busy) = false)
    (cw : ControlWord) :
    v.after st (.edge cw) =
      { R := edgeValue st v.R cw, busy := st.gateEvents || v.busy, written := v.written ++ [edgeValue st v.R cw] } :=
  if_neg (Bool.eq_false_iff.1 h)

/-! ### One event, and a run -/

/-- After a `Reset` the view does not depend on what came before. -/
theorem State.resetEvent_agrees (s : State) (v : RunView) : s.resetEvent.Agrees (v.after s.straps .reset) :=
  ⟨rfl, rfl, rfl⟩

theorem State.Agrees.done {s : State} {v : RunView} (h : s.Agrees v) : s.done.Agrees (v.after s.straps .done) := by
  obtain ⟨hR, hbusy, htrace⟩ := h
  refine ⟨(State.done_R s).trans hR, ?busy, ?trace⟩
  case busy => rw [State.done_busy, hbusy]; rfl
  case trace => rw [State.done_dacTrace, State.done_straps, htrace]; rfl

/-- An edge: the mask of the state is the mask of the view, and when it lets the edge pass both write the same value. -/
theorem State.Agrees.edge {s : State} {v : RunView} (h : s.Agrees v) (cw : ControlWord) :
    ∃ t, Machine.edge cw s = .next t ∧ t.Agrees (v.after s.straps (.edge cw)) ∧ t.straps = s.straps ∧
      t.stimulus = s.stimulus := by
  obtain ⟨hR, hbusy, htrace⟩ := h
  have hmask : s.recognises = !(s.straps.gateEvents && v.busy) := by rw [State.recognises, hbusy]
  cases hv : s.straps.gateEvents && v.busy with
  | true =>
    have hrec : s.recognises = false := by rw [hmask, hv, Bool.not_true]
    rw [RunView.after_edge_dropped hv]
    exact ⟨s, edge_of_not_recognises hrec cw, ⟨hR, hbusy, htrace⟩, rfl, rfl⟩
  | false =>
    have hrec : s.recognises = true := by rw [hmask, hv, Bool.not_false]
    rw [RunView.after_edge_recognised hv, edge_of_recognises hrec, recognisedEdge_next]
    refine ⟨_, rfl, ⟨?R, ?busy, ?trace⟩, rfl, rfl⟩
    case R => rw [hR]
    case busy => rw [hbusy]
    case trace => simp only [List.map_append, List.map_singleton, htrace, hR]

/-- One step of the recurrence, whatever the event. -/
theorem step_agrees {s : State} {v : RunView} {e : Event} {es : List Event} (hs : s.stimulus = e :: es)
    (h : s.Agrees v) :
    ∃ t, step s = .next t ∧ t.Agrees (v.after s.straps e) ∧ t.straps = s.straps ∧ t.stimulus = es := by
  rw [step_of_cons hs]
  have hrest : State.Agrees { s with stimulus := es } v := h
  cases e with
  | reset => exact ⟨_, rfl, State.resetEvent_agrees _ v, rfl, rfl⟩
  | done => exact ⟨_, rfl, hrest.done, State.done_straps _, State.done_stimulus _⟩
  | edge cw => exact hrest.edge cw

/-- A run through all its events follows the recurrence from any state it agrees with. -/
theorem runFor_agrees (es : List Event) {s : State} {v : RunView} (hs : s.stimulus = es) (h : s.Agrees v) :
    ∃ t, runFor es.length s = .next t ∧ t.Agrees (es.foldl (RunView.after s.straps) v) ∧ t.straps = s.straps ∧
      t.stimulus = [] := by
  induction es generalizing s v with
  | nil => exact ⟨s, runFor_zero s, h, rfl, hs⟩
  | cons e es ih =>
    obtain ⟨u, hstep, hu, hstraps, hstim⟩ := step_agrees hs h
    obtain ⟨t, hrun, ht, htstraps, htstim⟩ := ih hstim hu
    rw [hstraps] at ht htstraps
    exact ⟨t, (runFor_succ hstep es.length).trans hrun, ht, htstraps, htstim⟩

/-- Settles O46: the state after a reset agrees with the view a run starts from, and every step keeps the agreement. -/
theorem traceFollowsTheRecurrence : Obligations.TraceFollowsTheRecurrence := by
  intro st es
  have hstart : State.Agrees { State.resetOf st with stimulus := es } { R := st.seed, busy := false, written := [] } :=
    ⟨rfl, rfl, rfl⟩
  obtain ⟨t, hrun, hagrees, hstraps, hstim⟩ := runFor_agrees es rfl hstart
  obtain ⟨hR, hbusy, htrace⟩ := hagrees
  rw [hstraps] at htrace
  exact ⟨t, hrun, hR, hbusy, htrace, hstraps, hstim⟩

end Sys2Proof.Machine
end

section
/-! The list of exceptions is empty (rule R76): no event, and so no step, stops the machine. -/

namespace Sys2Proof.Machine

/-- Every event completes in every state; only an edge runs operations. -/
theorem onEvent_completes (e : Event) (s : State) : ∃ t, onEvent e s = .next t := by
  cases e with
  | reset => exact ⟨s.resetEvent, rfl⟩
  | edge cw => exact edge_completes cw s
  | done => exact ⟨s.done, rfl⟩

/-- Every step completes: it takes the next event, or there is none and the state holds. -/
theorem step_completes (s : State) : ∃ t, step s = .next t := by
  cases hs : s.stimulus with
  | nil => exact ⟨s, step_of_nil hs⟩
  | cons e es =>
    rw [step_of_cons hs]
    exact onEvent_completes e _

/-- Settles O36: every operation and every step completes, and `Fault` has no constructor. -/
theorem nothingFaults : Obligations.NothingFaults :=
  ⟨exec_completes, step_completes, fun f => nomatch f⟩

end Sys2Proof.Machine
end

section
/-! The event `Reset` (rule R87): the step on it, and what is still true of the state it leaves. -/

namespace Sys2Proof.Machine

/-- The step on a `Reset`, in every state. -/
theorem step_reset {s : State} {es : List Event} (hs : s.stimulus = .reset :: es) :
    step s = .next (State.resetEvent { s with stimulus := es }) :=
  step_of_cons hs

/-- With no code in flight, `Reset` writes `R`, `busy` and the DAC trace and no other field. -/
theorem State.resetEvent_eq {s : State} (h : s.encResult = none) :
    s.resetEvent = { s with R := s.straps.seed, busy := false, dacTrace := [] } := by
  rw [State.resetEvent, h]

/-- A `Done` that finds `busy` down changes nothing, whatever the gating (rule R72). -/
theorem State.done_of_not_busy {s : State} (h : s.busy = false) : s.done = s := by
  rw [State.done_eq, h, ite_self, ← h]

/-- The values `Reset` writes depend on the straps alone, which it keeps. -/
theorem State.resetEvent_resetEvent (s : State) : s.resetEvent.resetEvent = s.resetEvent :=
  State.resetEvent_eq (State.resetEvent_encResult s)

/-- Settles O33: the step is `resetEvent`, whose fields give the outputs, and `busy` down opens the mask and makes the
late `Done` harmless. -/
theorem resetEventEffect : Obligations.ResetEventEffect := by
  refine ⟨fun s es hs henc => ?step, fun s => ?after⟩
  case step =>
    have hrest : State.encResult { s with stimulus := es } = none := henc
    rw [step_reset hs, State.resetEvent_eq hrest]
  case after =>
    have hbusy : s.resetEvent.busy = false := State.resetEvent_busy s
    have hcode : s.resetEvent.codeOut = voltageCode s.straps s.straps.seed := by
      rw [State.codeOut_eq_voltageCode, State.resetEvent_straps, State.resetEvent_R]
    exact ⟨State.resetEvent_R s, hcode, State.resetEvent_dacTrace s, State.resetEvent_sent s,
      State.resetEvent_sampleCount s, State.recognises_of_not_busy hbusy, State.resetEvent_resetEvent s,
      State.done_of_not_busy hbusy⟩

end Sys2Proof.Machine
end

section
/-! Finite and infinite runs (rule R96): each event the environment delivers is one step of the recurrence, what `busy` up
says of the events so far is read off the recurrence, and where the environment stops the state stays. -/

namespace Sys2Proof.Machine

/-! ### Start and course -/

/-- Delivering an event is one step of the recurrence. -/
theorem deliver_agrees {s : State} {v : RunView} (e : Event) (h : s.Agrees v) :
    ∃ t, deliver e s = .next t ∧ t.Agrees (v.after s.straps e) ∧ t.straps = s.straps := by
  have hs : State.Agrees { s with stimulus := [e] } v := h
  obtain ⟨t, hstep, hagrees, hstraps, -⟩ := step_agrees rfl hs
  exact ⟨t, hstep, hagrees, hstraps⟩

@[simp] theorem EventSeq.take_zero (q : EventSeq) : q.take 0 = [] := by
  cases q <;> rfl

/-- After any number of events a run stands in a next state, where the recurrence says. -/
theorem Run.after_agrees (r : Run) (k : Nat) :
    ∃ t, r.after k = .next t ∧ t.Agrees (RunView.ofRun r.straps (r.events.take k)) ∧ t.straps = r.straps := by
  induction k with
  | zero =>
    rw [EventSeq.take_zero]
    exact ⟨_, Run.after_zero r, ⟨rfl, rfl, rfl⟩, State.resetOf_straps r.straps⟩
  | succ k ih =>
    obtain ⟨s, hafter, hagrees, hstraps⟩ := ih
    cases he : r.events.event? k with
    | none =>
      rw [EventSeq.take_succ_of_none he]
      exact ⟨s, Run.after_succ_of_none hafter he, hagrees, hstraps⟩
    | some e =>
      obtain ⟨t, hdeliver, ht, htstraps⟩ := deliver_agrees e hagrees
      rw [hstraps] at ht htstraps
      rw [EventSeq.take_succ_of_some he, RunView.ofRun_append]
      exact ⟨t, (Run.after_succ_of_some hafter he).trans hdeliver, ht, htstraps⟩

/-! ### `busy` up -/

/-- Among the events `es` after a `Reset` an edge was recognised, and only edges have come since: its send is
outstanding. -/
def SendOutstanding (st : Straps) (es : List Event) : Prop :=
  ∃ before cw since, es = before ++ .edge cw :: since ∧ (RunView.ofRun st before).busy = false ∧
    ∀ e ∈ since, ∃ cw', e = .edge cw'

theorem SendOutstanding.of_recognised {st : Straps} {es : List Event} (h : (RunView.ofRun st es).busy = false)
    (cw : ControlWord) : SendOutstanding st (es ++ [.edge cw]) :=
  ⟨es, cw, [], rfl, h, fun _ hmem => absurd hmem List.not_mem_nil⟩

/-- A further edge answers no send. -/
theorem SendOutstanding.append_edge {st : Straps} {es : List Event} (h : SendOutstanding st es) (cw : ControlWord) :
    SendOutstanding st (es ++ [.edge cw]) := by
  obtain ⟨before, cw₀, since, hes, hbefore, hsince⟩ := h
  refine ⟨before, cw₀, since ++ [.edge cw], ?split, hbefore, fun e hmem => ?edges⟩
  case split => rw [hes, List.append_assoc, List.cons_append]
  case edges =>
    obtain hold | hnew := List.mem_append.1 hmem
    · exact hsince e hold
    · exact ⟨cw, List.mem_singleton.1 hnew⟩

/-- Rule R96: `busy` is up only under gating and with a send outstanding.  By the last event: `Reset` lowers `busy`, so
does `Done` under gating, and an edge is recognised if it finds `busy` down. -/
theorem RunView.ofRun_busy {st : Straps} {es : List Event} (h : (RunView.ofRun st es).busy = true) :
    st.gateEvents = true ∧ SendOutstanding st es := by
  induction es using List.reverseRecOn with
  | nil => exact absurd h Bool.false_ne_true
  | append_singleton es e ih =>
    rw [RunView.ofRun_append] at h
    cases e with
    | reset => exact absurd h Bool.false_ne_true
    | done =>
      obtain ⟨hbusy, hungated⟩ := Bool.and_eq_true_iff.1 h
      obtain ⟨hgate, -⟩ := ih hbusy
      rw [hgate] at hungated
      exact absurd hungated Bool.false_ne_true
    | edge cw =>
      cases hbusy : (RunView.ofRun st es).busy with
      | true =>
        obtain ⟨hgate, hout⟩ := ih hbusy
        exact ⟨hgate, hout.append_edge cw⟩
      | false =>
        have hmask : (st.gateEvents && (RunView.ofRun st es).busy) = false := by rw [hbusy, Bool.and_false]
        rw [RunView.after_edge_recognised hmask] at h
        have hgate : st.gateEvents = true := by rwa [hbusy, Bool.or_false] at h
        exact ⟨hgate, .of_recognised hbusy cw⟩

/-! ### End -/

theorem EventSeq.event?_of_length_le {es : List Event} {k : Nat} (h : es.length ≤ k) :
    (EventSeq.finite es).event? k = none :=
  List.getElem?_eq_none h

/-- A finite run ends in the state after its last event. -/
theorem Run.after_of_length_le {r : Run} {es : List Event} (hfin : r.events = .finite es) {k : Nat}
    (hk : es.length ≤ k) : r.after k = r.after es.length := by
  induction k, hk using Nat.le_induction with
  | base => rfl
  | succ k hk ih =>
    obtain ⟨s, hafter, -, -⟩ := r.after_agrees k
    have hstop : r.events.event? k = none := by rw [hfin, EventSeq.event?_of_length_le hk]
    rw [← ih, Run.after_succ_of_none hafter hstop, hafter]

/-- Settles O50: `Reset` writes the values a run starts from, every event after it is a step of the recurrence, whose
`busy` tells of an outstanding send, and past its last event a finite run stays. -/
theorem runsAreFiniteOrInfinite : Obligations.RunsAreFiniteOrInfinite := by
  refine ⟨fun s => ⟨_, step_reset rfl, rfl, rfl, rfl, rfl, rfl⟩,
    fun r => ⟨⟨_, Run.after_zero r, rfl, rfl, rfl, rfl, rfl⟩, fun k => ?course,
      fun _ hfin _ hk => Run.after_of_length_le hfin hk⟩⟩
  case course =>
    obtain ⟨t, hafter, hagrees, hstraps⟩ := r.after_agrees k
    have ⟨_, hbusy, _⟩ := hagrees
    exact ⟨t, hafter, hagrees, hstraps, fun hup => RunView.ofRun_busy (hbusy.symm.trans hup)⟩

end Sys2Proof.Machine
end

section
/-! Format SEL as the four bits of rule R39, and both formats' words written out, read and written back (rules R39, R40,
R44). -/

namespace Sys2Proof.Machine

/-! ### The select word is its four bits -/

theorem selectWord_bits (w : SelectWord) :
    selectWord (w.getLsbD 3) (w.getLsbD 2) (w.getLsbD 1) (w.getLsbD 0) = w := by
  revert w; decide

/-- Settles O8: the feedback choice by the strap, and the four places of the assembled word. -/
theorem selectWordIsAssembled : Obligations.SelectWordIsAssembled := by
  intro st r cw
  refine ⟨fun hint => feedbackBit_int hint r cw.fbExt, fun hext => ?ext, selectWord_bit3 .., selectWord_bit2 ..,
    selectWord_bit1 .., selectWord_bit0 ..⟩
  simp only [feedbackBit, hext]

/-! ### Reading and writing words -/

/-- Settles O1: the decoder evaluated on each word. -/
theorem writtenWordsDecode : Obligations.WrittenWordsDecode :=
  ⟨rfl, rfl, rfl, rfl, rfl, rfl, rfl, rfl, rfl⟩

/-- Each operation is read back from its word: the columns of its row send the mux to its arm. -/
theorem decode_encode (i : Instr) : decode (encode i) = i := by
  cases i with
  | sethi fl lt fb => exact decodeSel_selectWord true fl lt fb
  | setlo lt fb => exact decodeSel_selectWord false true lt fb
  | flip fb => exact decodeSel_selectWord false false true fb
  | pass fb => exact decodeSel_selectWord false false false fb
  | encode r => rfl

/-- Whichever arm the mux takes, the bits its row fixes are the bits that chose it. -/
theorem encode_decodeSel_selectWord (fh fl lt fb : Bool) :
    encode (decodeSel (selectWord fh fl lt fb)) = .sel (selectWord fh fl lt fb) := by
  rw [decodeSel_selectWord]
  cases fh with
  | true => rfl
  | false =>
    cases fl with
    | true => rfl
    | false => cases lt <;> rfl

theorem encode_decode (fw : FormatWord) : encode (decode fw) = fw := by
  cases fw with
  | sel w =>
    rw [← selectWord_bits w]
    exact encode_decodeSel_selectWord ..
  | enc r => rfl

/-- Settles O3: an operation's row fixes the bits that the decoder tests, and its operands are all the others. -/
theorem decodeAndEncodeAreInverse : Obligations.DecodeAndEncodeAreInverse :=
  ⟨fun i _ => decode_encode i, encode_decode⟩

end Sys2Proof.Machine
end

section
/-! The operations as whole state updates: any select word shifts one bit in, ENCODE leaves a code, and the clamp that
makes the code (rule R63). -/

namespace Sys2Proof.Machine

/-! ### The arms -/

/-- The bit that the arm of a select word shifts in (rule R50). -/
def selectBit (w : SelectWord) : Bool := nextBit (w.getLsbD 3) (w.getLsbD 2) (w.getLsbD 1) (w.getLsbD 0)

/-- Whatever the select word, its arm shifts in its bit. -/
theorem exec_decode_sel (w : SelectWord) (s : State) :
    exec (decode (.sel w)) s = .next (s.shiftIn (selectBit w)) := by
  rw [selectBit, ← exec_decodeSel, selectWord_bits]
  rfl

/-- Settles O20: an arm is a shift by one place, which writes `R` alone. -/
theorem armsWriteOnlyR : Obligations.ArmsWriteOnlyR := by
  intro w s t hexec
  rw [exec_decode_sel] at hexec
  obtain rfl := Host.Outcome.next.inj hexec
  exact ⟨fun i h1 h7 => commit_rotl8_getLsbD_of_pos s.R _ h1 h7, rfl, rfl, rfl, rfl, rfl, rfl, rfl⟩

/-! ### ENCODE -/

/-- Settles O21: the code of the operand, whose 12 bits hold the clamped scale. -/
theorem encodeGivesTheCode : Obligations.EncodeGivesTheCode :=
  fun s r => ⟨voltageCode s.straps r, voltageCode_toInt s.straps r, exec_decodeEnc r s⟩

/-! ### The clamp -/

theorem clamp12_of_nonpos {v : Int} (h : v ≤ 0) : clamp12 v = 0 := by
  unfold clamp12; omega

theorem clamp12_of_ge {v : Int} (h : 4095 ≤ v) : clamp12 v = 4095 := by
  unfold clamp12; omega

/-- A scale below the codes is sent as the lowest one. -/
theorem voltageCode_of_scale_nonpos {st : Straps} {r : Register} (h : scale st r ≤ 0) : voltageCode st r = 0#12 := by
  rw [voltageCode, clamp12_of_nonpos h]
  rfl

/-- A scale above the codes is sent as the highest one. -/
theorem voltageCode_of_scale_ge {st : Straps} {r : Register} (h : 4095 ≤ scale st r) :
    voltageCode st r = 4095#12 := by
  rw [voltageCode, clamp12_of_ge h]
  rfl

/-- Settles O24: the line stays in its output range, begins at `ENC_OUT_LO`, and with the span 255 ends at
`ENC_OUT_HI`. -/
theorem clampActsOnlyOutside : Obligations.ClampActsOnlyOutside := by
  refine ⟨fun v => ⟨rfl, clamp12_range v⟩, rfl, rfl, rfl, rfl, fun st r hlegal h0 hmax => ?inside,
    fun st hlo => ?low, fun st hspan hhi => ?high⟩
  case inside =>
    obtain ⟨-, hle, -⟩ := Straps.outRange_of_legal hlegal
    exact clamp12_of_range (h0.trans (outLo_le_scale hle r)) ((scale_le_outHi hle r).trans hmax)
  case low => exact voltageCode_of_scale_nonpos ((scale_zero st).trans_lt hlo).le
  case high => exact voltageCode_of_scale_ge (hhi.trans_eq (scale_max_of_s255 hspan).symm).le

end Sys2Proof.Machine
end

section
/-! What a step leaves: the whole state after a recognised edge as one update (rule R70), and the step read from its next
state. -/

namespace Sys2Proof.Machine

/-- The word a recognised edge sends: the code of the value it writes (rule R70). -/
def edgeWord (st : Straps) (r : Register) (cw : ControlWord) : DacWord := word16 (voltageCode st (edgeValue st r cw))

/-- The whole update a recognised edge makes. -/
def State.afterEdge (cw : ControlWord) (s : State) : State :=
  { s with
    R := edgeValue s.straps s.R cw
    busy := s.straps.gateEvents || s.busy
    encResult := none
    dacTrace := s.dacTrace ++ [edgeWord s.straps s.R cw]
    sent := s.sent ++ [edgeWord s.straps s.R cw]
    sampleCount := s.sampleCount + 1 }

section
variable (cw : ControlWord) (s : State)

@[simp] theorem State.afterEdge_R : (s.afterEdge cw).R = edgeValue s.straps s.R cw := rfl
@[simp] theorem State.afterEdge_busy : (s.afterEdge cw).busy = (s.straps.gateEvents || s.busy) := rfl
@[simp] theorem State.afterEdge_straps : (s.afterEdge cw).straps = s.straps := rfl
@[simp] theorem State.afterEdge_encResult : (s.afterEdge cw).encResult = none := rfl
@[simp] theorem State.afterEdge_stimulus : (s.afterEdge cw).stimulus = s.stimulus := rfl
@[simp] theorem State.afterEdge_dacTrace :
    (s.afterEdge cw).dacTrace = s.dacTrace ++ [edgeWord s.straps s.R cw] := rfl
@[simp] theorem State.afterEdge_sent : (s.afterEdge cw).sent = s.sent ++ [edgeWord s.straps s.R cw] := rfl
@[simp] theorem State.afterEdge_sampleCount : (s.afterEdge cw).sampleCount = s.sampleCount + 1 := rfl

theorem recognisedEdge_eq_afterEdge : recognisedEdge cw s = .next (s.afterEdge cw) := recognisedEdge_next cw s

end

theorem edge_eq_afterEdge {s : State} (hrec : s.recognises = true) (cw : ControlWord) :
    edge cw s = .next (s.afterEdge cw) :=
  (edge_of_recognises hrec cw).trans (recognisedEdge_eq_afterEdge cw s)

theorem step_eq_afterEdge {s : State} {cw : ControlWord} {es : List Event} (hs : s.stimulus = .edge cw :: es)
    (hrec : s.recognises = true) : step s = .next (State.afterEdge cw { s with stimulus := es }) :=
  step_recognised_next hs hrec

/-- A step read from its next state: which event it was, and what that event left, as one update of the state. -/
theorem step_next_cases {s t : State} (hstep : step s = .next t) :
    (s.stimulus = [] ∧ t = s) ∨
    (∃ es, s.stimulus = .reset :: es ∧ t = s.popEvent.resetEvent) ∨
    (∃ es, s.stimulus = .done :: es ∧ t = s.popEvent.done) ∨
    (∃ cw es, s.stimulus = .edge cw :: es ∧ s.recognises = false ∧ t = s.popEvent) ∨
    (∃ cw es, s.stimulus = .edge cw :: es ∧ s.recognises = true ∧ t = s.popEvent.afterEdge cw) := by
  simpa only [recognisedEdge_eq_afterEdge, Host.Outcome.next.injEq, eq_comm (a := State.afterEdge _ _)]
    using step_eq_next hstep

end Sys2Proof.Machine
end

section
/-! What a step may write: the Register (rule R14), `busy` (rule R18), the straps, the observations and the driver
(rules R19, R33, R73). -/

namespace Sys2Proof.Machine

/-- Settles O38: of the five ways to step only two leave another `R`. -/
theorem onlyResetAndRecognisedEdgeWriteR : Obligations.OnlyResetAndRecognisedEdgeWriteR := by
  intro s t hstep hR
  rcases step_next_cases hstep with ⟨-, rfl⟩ | ⟨es, hs, rfl⟩ | ⟨es, -, rfl⟩ | ⟨cw, es, -, -, rfl⟩ |
    ⟨cw, es, hs, hrec, rfl⟩
  · exact absurd rfl hR
  · exact .inl ⟨es, hs, rfl⟩
  · exact absurd (State.done_R _) hR
  · exact absurd rfl hR
  · exact .inr ⟨cw, es, hs, hrec, rfl⟩

/-! ### The busy bit -/

/-- Only a recognised edge under gating raises `busy`. -/
theorem step_raises_busy {s t : State} (hstep : step s = .next t) (hdown : s.busy = false) (hup : t.busy = true) :
    s.straps.gateEvents = true ∧ ∃ cw es, s.stimulus = .edge cw :: es := by
  rcases step_next_cases hstep with ⟨-, rfl⟩ | ⟨es, -, rfl⟩ | ⟨es, -, rfl⟩ | ⟨cw, es, -, -, rfl⟩ |
    ⟨cw, es, hs, -, rfl⟩
  · simp [hdown] at hup
  · simp at hup
  · simp [hdown] at hup
  · simp [hdown] at hup
  · have hgate : s.straps.gateEvents = true := by simpa [hdown] using hup
    exact ⟨hgate, cw, es, hs⟩

/-- Only `Reset`, and `Done` under gating, lower `busy`. -/
theorem step_lowers_busy {s t : State} (hstep : step s = .next t) (hup : s.busy = true) (hdown : t.busy = false) :
    (s.straps.gateEvents = true ∧ ∃ es, s.stimulus = .done :: es) ∨ ∃ es, s.stimulus = .reset :: es := by
  rcases step_next_cases hstep with ⟨-, rfl⟩ | ⟨es, hs, rfl⟩ | ⟨es, hs, rfl⟩ | ⟨cw, es, -, -, rfl⟩ |
    ⟨cw, es, -, -, rfl⟩
  · simp [hup] at hdown
  · exact .inr ⟨es, hs⟩
  · have hgate : s.straps.gateEvents = true := by simpa [hup] using hdown
    exact .inl ⟨hgate, es, hs⟩
  · simp [hup] at hdown
  · simp [hup] at hdown

/-- Settles O39: which events raise and lower `busy`; without gating nothing raises it, and an edge needs no mask. -/
theorem onlyGatedEventsMoveBusy : Obligations.OnlyGatedEventsMoveBusy := by
  refine ⟨fun s t => step_raises_busy, fun s t => step_lowers_busy, fun s t hstep hgate hdown => ?ungated⟩
  have hstays : t.busy = false := by
    cases hup : t.busy with
    | false => rfl
    | true =>
      obtain ⟨hgated, -⟩ := step_raises_busy hstep hdown hup
      exact absurd (hgate.symm.trans hgated) Bool.false_ne_true
  exact ⟨hstays, State.recognises_of_not_busy hstays⟩

/-! ### Straps, samples and words -/

theorem step_straps {s t : State} (hstep : step s = .next t) : t.straps = s.straps := by
  rcases step_next_cases hstep with ⟨-, rfl⟩ | ⟨es, -, rfl⟩ | ⟨es, -, rfl⟩ | ⟨cw, es, -, -, rfl⟩ |
    ⟨cw, es, -, -, rfl⟩
  · rfl
  · rfl
  · exact State.done_straps _
  · rfl
  · rfl

theorem step_stimulus {s t : State} (hstep : step s = .next t) : t.stimulus = s.stimulus.tail := by
  rcases step_next_cases hstep with ⟨hs, rfl⟩ | ⟨es, -, rfl⟩ | ⟨es, -, rfl⟩ | ⟨cw, es, -, -, rfl⟩ |
    ⟨cw, es, -, -, rfl⟩
  · rw [hs, List.tail_nil]
  · rfl
  · exact State.done_stimulus _
  · rfl
  · rfl

/-- Between events no code is stored, and no step stores one (rule R15). -/
theorem step_encResult {s t : State} (henc : s.encResult = none) (hstep : step s = .next t) : t.encResult = none := by
  rcases step_next_cases hstep with ⟨-, rfl⟩ | ⟨es, -, rfl⟩ | ⟨es, -, rfl⟩ | ⟨cw, es, -, -, rfl⟩ |
    ⟨cw, es, -, -, rfl⟩
  · exact henc
  · rfl
  · exact (State.done_encResult _).trans henc
  · exact henc
  · rfl

/-- Settles O40: a recognised edge appends the word of the value it wrote and counts one sample; of the other events
only `Reset` touches the DAC trace. -/
theorem oneSendPerRecognisedEdge : Obligations.OneSendPerRecognisedEdge := by
  intro s t henc hstep
  refine ⟨step_straps hstep, step_encResult henc hstep, step_stimulus hstep, ?sends⟩
  rcases step_next_cases hstep with ⟨hs, rfl⟩ | ⟨es, hs, rfl⟩ | ⟨es, hs, rfl⟩ | ⟨cw, es, -, hrec, rfl⟩ |
    ⟨cw, es, hs, hrec, rfl⟩
  · exact .inr ⟨by simp [hs], rfl, rfl, .inl rfl⟩
  · exact .inr ⟨by simp [hs], rfl, rfl, .inr ⟨es, hs, rfl⟩⟩
  · exact .inr ⟨by simp [hs], State.done_sampleCount _, State.done_sent _, .inl (State.done_dacTrace _)⟩
  · exact .inr ⟨by simp [hrec], rfl, rfl, .inl rfl⟩
  · exact .inl ⟨⟨cw, es, hs⟩, hrec, rfl, rfl, rfl⟩

end Sys2Proof.Machine
end

section
/-! One event at a time: the operations of a recognised edge in their order (rule R70), and the occurrences of one
instant in theirs (rule R81). -/

namespace Sys2Proof.Machine

/-- Settles O29: the step takes the edge, and the recognised edge is this sequence. -/
theorem stepRunsTheDecodedWords : Obligations.StepRunsTheDecodedWords := by
  intro s cw es i hs hrec hdecode
  have hrest : State.recognises { s with stimulus := es } = true := hrec
  rw [step_of_cons hs, onEvent, edge_of_recognises hrest, ← hdecode]
  rfl

/-- Settles O49: one step of the recurrence is what every event does to a state that agrees with a view. -/
theorem stepFollowsTheRecurrence : Obligations.StepFollowsTheRecurrence :=
  fun _ _ _ _ hs hagrees => step_agrees hs hagrees

/-! ### Coinciding occurrences -/

/-- A `Reset` stands alone before what was to come. -/
theorem State.present_stimulus_of_rst {o : Occurrence} (h : o.rst = true) (s : State) :
    (s.present o).stimulus = .reset :: s.stimulus := by
  simp [State.present, Occurrence.events, h]

/-- An `Edge` and a `Done` at one instant, the `Edge` first. -/
theorem State.present_edge_done_stimulus (cw : ControlWord) (s : State) :
    (s.present { rst := false, evt := some cw, dacDone := true }).stimulus = .edge cw :: .done :: s.stimulus := rfl

/-- Settles O37: each occurrence is its event's step, in the order in which `present` puts the events. -/
theorem coincidenceOrder : Obligations.CoincidenceOrder := by
  refine ⟨fun s o hrst henc => ?reset, fun s cw hgate hbusy => ?dropped, fun s cw hgate hbusy henc => ?recognised⟩
  case reset =>
    rw [step_reset (State.present_stimulus_of_rst hrst s)]
    exact congrArg Host.Outcome.next (State.resetEvent_eq henc)
  case dropped =>
    have hmask := State.not_recognises_of_busy hgate hbusy
    rw [step_dropped (State.present_edge_done_stimulus cw s) hmask, andThen_next, step_done rfl]
    simp [State.present, hgate]
  case recognised =>
    have hmask := State.recognises_of_not_busy hbusy
    refine ⟨_, _, step_recognised_next (State.present_edge_done_stimulus cw s) hmask, ?_, step_done rfl, ?_, rfl⟩
    · simp [State.present, hgate]
    · simp [State.present, hgate]

end Sys2Proof.Machine
end

section
/-! What an edge acts through: its select word (rules R23, R39, R50), and none of the observations (rules R16, R29). -/

namespace Sys2Proof.Machine

/-! ### The select word carries everything -/

theorem selectBit_selectWord (fh fl lt fb : Bool) : selectBit (selectWord fh fl lt fb) = nextBit fh fl lt fb := by
  revert fh fl lt fb; decide

/-- An edge writes what the arm of its select word writes. -/
theorem edgeValue_eq_commit_selectBit (st : Straps) (r : Register) (cw : ControlWord) :
    edgeValue st r cw = commit (rotl8 r) (selectBit (assembleSelect st r cw)) := by
  rw [assembleSelect, selectBit_selectWord]
  rfl

/-- The value written decides the whole effect of a recognised edge. -/
theorem State.afterEdge_congr {s : State} {cw cw' : ControlWord}
    (h : edgeValue s.straps s.R cw = edgeValue s.straps s.R cw') : s.afterEdge cw = s.afterEdge cw' := by
  simp only [State.afterEdge, edgeWord, h]

/-- Two edges that would write the same value are one edge to the machine, recognised or dropped. -/
theorem step_edge_congr {s : State} {cw cw' : ControlWord}
    (h : edgeValue s.straps s.R cw = edgeValue s.straps s.R cw') (es : List Event) :
    step { s with stimulus := .edge cw :: es } = step { s with stimulus := .edge cw' :: es } := by
  have hafter : State.afterEdge cw { s with stimulus := es } = State.afterEdge cw' { s with stimulus := es } :=
    State.afterEdge_congr h
  rw [step_of_cons rfl, step_of_cons rfl]
  simp only [onEvent, edge, recognisedEdge_eq_afterEdge, hafter]

/-- With internal feedback the select word is assembled without `fb_ext`. -/
theorem assembleSelect_fbExt_int {st : Straps} (hint : st.fbSel = .int) (r : Register) (cw : ControlWord) (b : Bool) :
    assembleSelect st r { cw with fbExt := b } = assembleSelect st r cw := by
  simp only [assembleSelect, feedbackBit_int hint]
  rfl

/-- Settles O41: the select word decides the value written, internal feedback leaves `fb_ext` out of the word, and
force-high decides the value alone. -/
theorem selectWordCarriesEverything : Obligations.SelectWordCarriesEverything := by
  refine ⟨fun s cw cw' es hsel => step_edge_congr ?sel es, fun s cw b es hint => step_edge_congr ?fbExt es,
    fun s cw cw' es hfh hfh' => step_edge_congr ?forced es⟩
  case sel => rw [edgeValue_eq_commit_selectBit, edgeValue_eq_commit_selectBit, hsel]
  case fbExt => rw [edgeValue_eq_commit_selectBit, edgeValue_eq_commit_selectBit, assembleSelect_fbExt_int hint]
  case forced => rw [edgeValue_forceHigh s.R hfh, edgeValue_forceHigh s.R hfh']

/-! ### The observations are never read -/

/-- `s` with other observations. -/
def State.observing (trace sent : List DacWord) (count : Nat) (s : State) : State :=
  { s with dacTrace := trace, sent := sent, sampleCount := count }

/-- Every event does the same to a block whatever has been observed of it, and gives its driver the same words. -/
theorem onEvent_observing {e : Event} {s t : State} (h : onEvent e s = .next t) (trace sent : List DacWord)
    (count : Nat) :
    ∃ trace' count' ws, onEvent e (s.observing trace sent count) = .next (t.observing trace' (sent ++ ws) count') ∧
      t.sent = s.sent ++ ws := by
  cases e with
  | reset =>
    obtain rfl := Host.Outcome.next.inj h
    exact ⟨[], count, [], by rw [List.append_nil]; rfl, (List.append_nil _).symm⟩
  | done =>
    obtain rfl := Host.Outcome.next.inj h
    have hdone : (s.observing trace sent count).done = s.done.observing trace sent count := by
      rw [State.done_eq, State.done_eq]; rfl
    exact ⟨trace, count, [], by rw [List.append_nil, ← hdone]; rfl, by rw [State.done_sent, List.append_nil]⟩
  | edge cw =>
    cases hrec : s.recognises with
    | false =>
      obtain rfl := Host.Outcome.next.inj ((edge_of_not_recognises hrec cw).symm.trans h)
      have hrec' : (s.observing trace sent count).recognises = false := hrec
      exact ⟨trace, count, [], by rw [List.append_nil]; exact edge_of_not_recognises hrec' cw,
        (List.append_nil _).symm⟩
    | true =>
      obtain rfl := Host.Outcome.next.inj ((edge_eq_afterEdge hrec cw).symm.trans h)
      have hrec' : (s.observing trace sent count).recognises = true := hrec
      exact ⟨trace ++ [edgeWord s.straps s.R cw], count + 1, [edgeWord s.straps s.R cw],
        edge_eq_afterEdge hrec' cw, rfl⟩

/-- So does every step. -/
theorem step_observing {s t : State} (h : step s = .next t) (trace sent : List DacWord) (count : Nat) :
    ∃ trace' count' ws, step (s.observing trace sent count) = .next (t.observing trace' (sent ++ ws) count') ∧
      t.sent = s.sent ++ ws := by
  cases hs : s.stimulus with
  | nil =>
    obtain rfl := Host.Outcome.next.inj ((step_of_nil hs).symm.trans h)
    have hs' : (s.observing trace sent count).stimulus = [] := hs
    exact ⟨trace, count, [], by rw [List.append_nil]; exact step_of_nil hs', (List.append_nil _).symm⟩
  | cons e es =>
    have hs' : (s.observing trace sent count).stimulus = e :: es := hs
    rw [step_of_cons hs] at h
    rw [step_of_cons hs']
    exact onEvent_observing h trace sent count

/-- Settles O42: the next states differ in the observations alone, to which the same words have been appended. -/
theorem observationsAreNeverRead : Obligations.ObservationsAreNeverRead := by
  intro s t trace sent count hstep
  obtain ⟨_, _, ws, hstep', hsent⟩ := step_observing hstep trace sent count
  refine ⟨_, hstep', rfl, rfl, rfl, rfl, rfl, fun ws' hsent' => ?words⟩
  have hws : ws = ws' := List.append_cancel_left (hsent.symm.trans hsent')
  rw [← hws]
  rfl

end Sys2Proof.Machine
end

section
/-! A word placed for the next step (notes/assumptions/4.md): the edge that brings it, and what that edge commits. -/

namespace Sys2Proof.Machine

/-! ### Placing an edge -/

/-- The Register beside a placed select word: with internal feedback its bit 7 is the word's low bit. -/
def State.registerFor (w : SelectWord) (s : State) : Register :=
  match s.straps.fbSel with
  | .int => withBit7 (w.getLsbD 0) s.R
  | .ext => s.R

theorem State.withWordNext_sel (w : SelectWord) (s : State) :
    s.withWordNext (.sel w) = (s.withEdgeNext (samplesFor w)).writeR (s.registerFor w) := by
  simp only [State.withWordNext, State.registerFor]
  cases s.straps.fbSel <;> rfl

/-- The edge that commits the operand `r`: it forces `r`'s low bit. -/
def operandEdge (r : Register) : ControlWord :=
  { fh := r.getLsbD 0, fl := !r.getLsbD 0, thrRaw := 0, rndRaw := 0, fbExt := false }

/-- The Register beside that edge: `r`'s upper bits one place down. -/
def State.registerBefore (r : Register) (s : State) : Register := withBit7 (s.R.getLsbD 7) (r >>> 1)

theorem State.withWordNext_enc (r : Register) (s : State) :
    s.withWordNext (.enc r) = (s.withEdgeNext (operandEdge r)).writeR (s.registerBefore r) := rfl

/-- A placed edge is never dropped. -/
theorem State.withEdgeNext_recognises (cw : ControlWord) (s : State) : (s.withEdgeNext cw).recognises = true := by
  simp only [State.recognises, State.withEdgeNext]
  cases s.straps.gateEvents <;> simp

/-- The step on an edge placed beside the Register `v`. -/
theorem step_withEdgeNext_writeR (cw : ControlWord) (v : Register) (s : State) :
    ∃ t, step ((s.withEdgeNext cw).writeR v) = .next t ∧ t.R = edgeValue s.straps v cw ∧
      t.sent = s.sent ++ [edgeWord s.straps v cw] :=
  ⟨_, step_eq_afterEdge rfl (State.withEdgeNext_recognises cw s), rfl, rfl⟩

/-! ### What the placed edges assemble to and commit -/

/-- The threshold and draw of `samplesFor w` make `lt` the word's bit 1. -/
theorem comparatorOf_samplesFor {st : Straps} (hlegal : st.legal = true) (w : SelectWord) :
    comparatorOf st (samplesFor w) = w.getLsbD 1 := by
  cases hbit : w.getLsbD 1 with
  | false => exact comparatorOf_of_thrRaw_zero st (if_neg (Bool.eq_false_iff.1 hbit))
  | true =>
    have hsame : comparatorOf st (samplesFor w) = comparatorOf st (pseudoFLIP false) := by
      simp [comparatorOf, sampleThreshold, sampleRandom, samplesFor, pseudoFLIP, hbit]
    rw [hsame, comparatorOf_pseudoFLIP (Straps.sampleW_of_legal hlegal)]

theorem withBit7_getLsbD_seven (b : Bool) (r : Register) : (withBit7 b r).getLsbD 7 = b :=
  BitVec.getLsbD_append.trans (by simp)

/-- The feedback bit of a placed select word is the word's low bit, by either strap. -/
theorem feedbackBit_registerFor (s : State) (w : SelectWord) :
    feedbackBit s.straps (s.registerFor w) (w.getLsbD 0) = w.getLsbD 0 := by
  cases hfb : s.straps.fbSel with
  | int => simp only [feedbackBit, State.registerFor, hfb, withBit7_getLsbD_seven]
  | ext => simp only [feedbackBit, hfb]

theorem assembleSelect_placed {s : State} (hlegal : s.straps.legal = true) (w : SelectWord) :
    assembleSelect s.straps (s.registerFor w) (samplesFor w) = w := by
  rw [assembleSelect, comparatorOf_samplesFor hlegal]
  exact (congrArg _ (feedbackBit_registerFor s w)).trans (selectWord_bits w)

/-- Two opposite forces shift in the upper one. -/
theorem nextBit_opposite (b lt fb : Bool) : nextBit b (!b) lt fb = b := by
  cases b <;> rfl

/-- Shifting a Register's low bit into its upper bits gives the Register back, whatever stood in bit 7. -/
theorem commit_rotl8_withBit7_ushiftRight (b : Bool) (r : Register) :
    commit (rotl8 (withBit7 b (r >>> 1))) (r.getLsbD 0) = r := by
  rw [commit_rotl8_eq_append, extractLsb'_withBit7, ← commit_rotl8_eq_append]
  apply commit_eq_of_getLsbD rfl
  intro i h1 h7
  rw [rotl8_getLsbD_of_pos _ h1 h7, BitVec.getLsbD_ushiftRight, Nat.add_sub_cancel' h1]

theorem edgeValue_operandEdge (s : State) (r : Register) :
    edgeValue s.straps (s.registerBefore r) (operandEdge r) = r := by
  rw [edgeValue_eq, edgeBit]
  exact (congrArg _ (nextBit_opposite _ _ _)).trans (commit_rotl8_withBit7_ushiftRight _ r)

/-- Settles O43: the placed edge assembles to the select word, or commits the operand. -/
theorem placedWordIsRun : Obligations.PlacedWordIsRun := by
  refine ⟨fun s w hlegal => ?sel, fun s r _ _ => ?enc⟩
  case sel =>
    rw [State.withWordNext_sel]
    obtain ⟨t, hstep, hR, -⟩ := step_withEdgeNext_writeR (samplesFor w) (s.registerFor w) s
    refine ⟨_, t, exec_decode_sel w _, hstep, ?_⟩
    rw [hR, edgeValue_eq_commit_selectBit, assembleSelect_placed hlegal]
    rfl
  case enc =>
    rw [State.withWordNext_enc]
    obtain ⟨t, hstep, hR, hsent⟩ := step_withEdgeNext_writeR (operandEdge r) (s.registerBefore r) s
    rw [edgeWord, edgeValue_operandEdge] at hsent
    rw [edgeValue_operandEdge] at hR
    exact ⟨_, voltageCode s.straps r, t, exec_decodeEnc r _, rfl, hstep, hR, hsent⟩

end Sys2Proof.Machine
end

section
/-! The invariant of the state between events (rules R8, R15, R18, R20, R29, R33, R37, R65, R96): it holds after reset
and each event keeps it. -/

namespace Sys2Proof.Machine

/-! ### After reset -/

/-- Nothing has been sent and nothing sampled, and the events to come fit. -/
theorem State.inv_resetOf {st : Straps} (hlegal : st.legal = true) {es : List Event}
    (hfits : ∀ e ∈ es, e.fits st.sampleW = true) : State.Inv { State.resetOf st with stimulus := es } where
  straps_legal := hlegal
  samples_fit := hfits
  busy_gated := fun _ => rfl
  busy_sent := fun hbusy => absurd hbusy Bool.false_ne_true
  code_dropped := rfl
  trace_matches := rfl
  trace_suffix := List.nil_suffix
  words_12bit := fun _ hw => absurd hw List.not_mem_nil
  one_send_per_sample := rfl

/-- Settles O44: the default straps of the model's own reset state are legal. -/
theorem resetStateMeetsTheInvariant : Obligations.ResetStateMeetsTheInvariant :=
  ⟨fun _ _ hlegal hfits => State.inv_resetOf hlegal hfits,
    State.inv_resetOf (st := Straps.default) (es := []) rfl fun _ he => absurd he List.not_mem_nil⟩

/-! ### Each event -/

/-- The invariant speaks of the events to come only where it says that their samples fit. -/
theorem State.Inv.withStimulus {s : State} (h : s.Inv) {es : List Event}
    (hfits : ∀ e ∈ es, e.fits s.straps.sampleW = true) : State.Inv { s with stimulus := es } :=
  { h with samples_fit := hfits }

theorem State.Inv.popEvent {s : State} (h : s.Inv) : s.popEvent.Inv :=
  h.withStimulus fun e he => h.samples_fit e (List.mem_of_mem_tail he)

theorem State.Inv.resetEvent {s : State} (h : s.Inv) : s.resetEvent.Inv :=
  { h with
    busy_gated := fun _ => rfl
    busy_sent := fun hbusy => absurd hbusy Bool.false_ne_true
    code_dropped := rfl
    trace_matches := rfl
    trace_suffix := List.nil_suffix }

/-- Without gating `busy` is down already, and a `Done` that finds it down changes nothing. -/
theorem State.Inv.done {s : State} (h : s.Inv) : s.done.Inv := by
  cases hgate : s.straps.gateEvents with
  | false =>
    rw [State.done_of_not_busy (h.busy_gated hgate)]
    exact h
  | true =>
    rw [State.done_eq, if_pos hgate]
    exact { h with
      busy_gated := fun _ => rfl
      busy_sent := fun hbusy => absurd hbusy Bool.false_ne_true }

theorem edgeWord_toNat_le (st : Straps) (r : Register) (cw : ControlWord) : (edgeWord st r cw).toNat ≤ 4095 := by
  rw [edgeWord, word16_toNat]
  exact Nat.le_of_lt_succ (BitVec.isLt _)

/-- The last word of the trace is the code of the value just written. -/
theorem State.traceMatchesR_afterEdge (cw : ControlWord) (s : State) : (s.afterEdge cw).traceMatchesR := by
  rw [State.traceMatchesR, State.afterEdge_dacTrace, List.getLast?_concat]
  rfl

theorem State.Inv.afterEdge {s : State} (h : s.Inv) (cw : ControlWord) : (s.afterEdge cw).Inv :=
  { h with
    busy_gated := fun hgate => Bool.or_eq_false_iff.2 ⟨hgate, h.busy_gated hgate⟩
    busy_sent := fun _ => List.concat_ne_nil _ _
    code_dropped := rfl
    trace_matches := State.traceMatchesR_afterEdge cw s
    trace_suffix := List.suffix_append_self_iff.2 h.trace_suffix
    words_12bit := fun w hw => by
      obtain hold | hnew := List.mem_append.1 hw
      · exact h.words_12bit w hold
      · rw [List.mem_singleton.1 hnew]
        exact edgeWord_toNat_le ..
    one_send_per_sample := by
      rw [State.afterEdge_sampleCount, State.afterEdge_sent, List.length_append, h.one_send_per_sample]
      rfl }

/-! ### Every step, and every run -/

theorem step_keeps_inv {s t : State} (h : s.Inv) (hstep : step s = .next t) : t.Inv := by
  rcases step_next_cases hstep with ⟨-, rfl⟩ | ⟨es, -, rfl⟩ | ⟨es, -, rfl⟩ | ⟨cw, es, -, -, rfl⟩ |
    ⟨cw, es, -, -, rfl⟩
  · exact h
  · exact h.popEvent.resetEvent
  · exact h.popEvent.done
  · exact h.popEvent
  · exact h.popEvent.afterEdge cw

/-- Settles O45: each of the five ways to step keeps the invariant. -/
theorem everyStepKeepsTheInvariant : Obligations.EveryStepKeepsTheInvariant :=
  fun _ _ h hstep => step_keeps_inv h hstep

/-- Settles O48: no step stops, and each keeps the invariant. -/
theorem runsFromTheInvariantAreSafe : Obligations.RunsFromTheInvariantAreSafe := by
  intro s h k
  induction k generalizing s with
  | zero => exact ⟨s, runFor_zero s, h⟩
  | succ k ih =>
    obtain ⟨u, hstep⟩ := step_completes s
    obtain ⟨t, hrun, ht⟩ := ih u (step_keeps_inv h hstep)
    exact ⟨t, (runFor_succ hstep k).trans hrun, ht⟩

end Sys2Proof.Machine
end

section
/-! Runs in which every edge is recognised: what they write (spec/95_test_vectors.md section 2.4) and what they send
(rule R94). -/

namespace Sys2Proof.Machine

/-! ### Runs of recognised edges -/

/-- What a recognised edge adds to a run. -/
theorem step_lengthens_trace {s : State} {cw : ControlWord} {es : List Event} (hs : s.stimulus = .edge cw :: es)
    (hrec : s.recognises = true) :
    ∃ u, step s = .next u ∧ u.R = edgeValue s.straps s.R cw ∧ u.straps = s.straps ∧ u.stimulus = es ∧
      u.dacTrace.length = s.dacTrace.length + 1 :=
  ⟨_, step_eq_afterEdge hs hrec, rfl, rfl, rfl, List.length_append⟩

/-- Without gating each edge of a run writes its value and sends a word. -/
theorem runFor_ungated_edges (cws : List ControlWord) {s : State} (hs : s.stimulus = cws.map .edge)
    (hgate : s.straps.gateEvents = false) :
    ∃ t, runFor cws.length s = .next t ∧ t.R = cws.foldl (edgeValue s.straps) s.R ∧
      t.dacTrace.length = s.dacTrace.length + cws.length := by
  induction cws generalizing s with
  | nil => exact ⟨s, runFor_zero s, rfl, rfl⟩
  | cons cw cws ih =>
    obtain ⟨u, hedge, huR, hustraps, hustim, hulen⟩ := step_lengthens_trace hs (State.recognises_of_ungated hgate)
    obtain ⟨t, hrun, hR, hlen⟩ := ih hustim (hustraps ▸ hgate)
    refine ⟨t, (runFor_succ hedge cws.length).trans hrun, ?R, ?len⟩
    case R => rw [hR, hustraps, huR, List.foldl_cons]
    case len =>
      rw [hlen, hulen, List.length_cons]
      omega

/-- Under gating an edge raises `busy` and its `Done` lowers it, so each answered edge of a run sends a word. -/
theorem runFor_answered_edges (cws : List ControlWord) {s : State}
    (hs : s.stimulus = cws.flatMap fun cw => [.edge cw, .done]) (hgate : s.straps.gateEvents = true)
    (hbusy : s.busy = false) :
    ∃ t, runFor (2 * cws.length) s = .next t ∧ t.dacTrace.length = s.dacTrace.length + cws.length ∧
      t.busy = false := by
  induction cws generalizing s with
  | nil => exact ⟨s, runFor_zero s, rfl, hbusy⟩
  | cons cw cws ih =>
    rw [List.flatMap_cons, List.cons_append, List.singleton_append] at hs
    obtain ⟨u, hedge, -, hustraps, hustim, hulen⟩ := step_lengthens_trace hs (State.recognises_of_not_busy hbusy)
    have hugate : u.straps.gateEvents = true := hustraps ▸ hgate
    have hdone := step_done hustim
    rw [if_pos hugate] at hdone
    obtain ⟨t, hrun, hlen, htbusy⟩ :=
      ih (s := { u with stimulus := cws.flatMap (fun cw => [.edge cw, .done]), busy := false }) rfl hugate rfl
    refine ⟨t, ?run, ?len, htbusy⟩
    case run =>
      calc runFor (2 * cws.length + 1 + 1) s = runFor (2 * cws.length + 1) u := runFor_succ hedge _
        _ = runFor (2 * cws.length) _ := runFor_succ hdone _
        _ = .next t := hrun
    case len =>
      rw [hlen, hulen, List.length_cons]
      omega

/-- Settles O47: an edge that finds its send answered, or that no gating can drop, adds one word to the trace. -/
theorem everyAnsweredEdgeSends : Obligations.EveryAnsweredEdgeSends := by
  refine ⟨fun s cws hgate hbusy _ => runFor_answered_edges cws rfl hgate hbusy, fun s cws hgate _ => ?ungated⟩
  obtain ⟨t, hrun, -, hlen⟩ := runFor_ungated_edges cws (s := { s with stimulus := cws.map .edge }) rfl hgate
  exact ⟨t, hrun, hlen⟩

/-! ### Eight edges of one arm -/

/-- Bit 7 goes around the ring of eight places through `g`. -/
def ringStep (g : Bool → Bool) (r : Register) : Register := commit (rotl8 r) (g (r.getLsbD 7))

theorem ringStep_getLsbD (g : Bool → Bool) (r : Register) {i : Nat} (hi : i < 8) :
    (ringStep g r).getLsbD i = if i = 0 then g (r.getLsbD 7) else r.getLsbD (i - 1) := by
  rw [ringStep, commit_getLsbD _ _ i hi]
  split
  · rfl
  · next h => rw [rotl8_getLsbD r i hi, if_neg h]

/-- After `k` places the lowest `k` bits have gone through `g`, and the others stand `k` places higher. -/
theorem ringStep_iterate_getLsbD (g : Bool → Bool) (r : Register) {k : Nat} (hk : k ≤ 8) {i : Nat} (hi : i < 8) :
    ((ringStep g)^[k] r).getLsbD i = if i < k then g (r.getLsbD (i + 8 - k)) else r.getLsbD (i - k) := by
  induction k generalizing i with
  | zero => rfl
  | succ k ih =>
    have hk' : k ≤ 8 := Nat.le_of_succ_le hk
    rw [Function.iterate_succ_apply', ringStep_getLsbD g _ hi]
    cases i with
    | zero =>
      have hkeep : ¬ 7 < k := by omega
      have hplace : 7 - k = 0 + 8 - (k + 1) := by omega
      rw [if_pos rfl, if_pos k.succ_pos, ih hk' (by decide), if_neg hkeep, hplace]
    | succ i =>
      have hlow : i + 8 - k = i + 1 + 8 - (k + 1) := by omega
      rw [if_neg i.succ_ne_zero, Nat.add_sub_cancel, ih hk' (Nat.lt_of_succ_lt hi), hlow, Nat.add_sub_add_right]
      simp only [Nat.add_lt_add_iff_right]

/-- After eight places every bit has gone through `g` once and stands where it stood. -/
theorem ringStep_iterate_eight_getLsbD (g : Bool → Bool) (r : Register) {i : Nat} (hi : i < 8) :
    ((ringStep g)^[8] r).getLsbD i = g (r.getLsbD i) := by
  rw [ringStep_iterate_getLsbD g r le_rfl hi, if_pos hi, Nat.add_sub_cancel]

/-- Eight equal edges that put bit 7 through `g` write a Register whose bits have all gone through `g`. -/
theorem runFor_eight_edges {s : State} {cw : ControlWord} {g : Bool → Bool} {v : Register}
    (hgate : s.straps.gateEvents = false) (hring : ∀ r, edgeValue s.straps r cw = ringStep g r)
    (hv : ∀ i < 8, v.getLsbD i = g (s.R.getLsbD i)) :
    ∃ t, runFor 8 { s with stimulus := List.replicate 8 (.edge cw) } = .next t ∧ t.R = v := by
  obtain ⟨t, hrun, hR, -⟩ := runFor_ungated_edges (List.replicate 8 cw)
    (s := { s with stimulus := List.replicate 8 (.edge cw) }) rfl hgate
  have hiter : (List.replicate 8 cw).foldl (edgeValue s.straps) s.R = (ringStep g)^[8] s.R := by
    simp only [List.replicate, List.foldl, hring]
    rfl
  refine ⟨t, hrun, (hR.trans hiter).trans (BitVec.eq_of_getLsbD_eq fun i hi => ?_)⟩
  rw [ringStep_iterate_eight_getLsbD g s.R hi, hv i hi]

theorem edgeValue_pseudoFLIP_int {st : Straps} (hlegal : st.legal = true) (hint : st.fbSel = .int) (r : Register) :
    edgeValue st r (pseudoFLIP false) = ringStep (fun b => !b) r := by
  rw [edgeValue_eq, edgeBit, comparatorOf_pseudoFLIP (Straps.sampleW_of_legal hlegal), feedbackBit_int hint]
  rfl

/-- Settles O19: with internal feedback each of the three puts bit 7 around the ring, FLIP through the complement and
the forces through a constant. -/
theorem eightEdgeLaws : Obligations.EightEdgeLaws := by
  intro s hlegal hint hgate
  refine ⟨runFor_eight_edges hgate (edgeValue_pseudoFLIP_int hlegal hint) fun i hi => ?flip,
    runFor_eight_edges (g := fun _ => true) hgate (fun _ => rfl) ?sethi,
    runFor_eight_edges (g := fun _ => false) hgate (fun _ => rfl) ?setlo⟩
  case flip => simp [hi]
  case sethi => decide
  case setlo => decide

end Sys2Proof.Machine
end

section
/-! The infinite runs (rule R96): each event determines the next state, and a list of events to come is delivered one by
one. -/

namespace Sys2Proof.Machine

/-! ### The state after one event -/

/-- The state after the event `e`, which always is one (`deliver_eq_delivered`). -/
def delivered (e : Event) (s : State) : State :=
  match deliver e s with
  | .next t => t
  | .fault _ => s
  | .refused _ => s

theorem deliver_eq_delivered (e : Event) (s : State) : deliver e s = .next (delivered e s) := by
  obtain ⟨t, h⟩ : ∃ t, deliver e s = .next t := step_completes _
  rw [delivered, h]

/-- The machine has taken the one event it was handed. -/
theorem delivered_stimulus (e : Event) (s : State) : (delivered e s).stimulus = [] :=
  step_stimulus (deliver_eq_delivered e s)

theorem delivered_straps (e : Event) (s : State) : (delivered e s).straps = s.straps :=
  step_straps (s := { s with stimulus := [e] }) (deliver_eq_delivered e s)

theorem State.Inv.delivered {s : State} (h : s.Inv) {e : Event} (hfits : e.fits s.straps.sampleW = true) :
    (delivered e s).Inv :=
  step_keeps_inv (h.withStimulus (es := [e]) (List.forall_mem_singleton.2 hfits)) (deliver_eq_delivered e s)

/-! ### Events to come, delivered one by one -/

/-- An event reads nothing of the events behind it and leaves them to come. -/
theorem onEvent_withStimulus {e : Event} {s t : State} (h : onEvent e s = .next t) (es : List Event) :
    onEvent e { s with stimulus := es } = .next { t with stimulus := es } := by
  cases e with
  | reset =>
    obtain rfl := Host.Outcome.next.inj h
    rfl
  | done =>
    obtain rfl := Host.Outcome.next.inj h
    rw [onEvent, State.done_eq, State.done_eq]
  | edge cw =>
    have hmask : State.recognises { s with stimulus := es } = s.recognises := rfl
    cases hrec : s.recognises with
    | false =>
      obtain rfl := Host.Outcome.next.inj ((edge_of_not_recognises hrec cw).symm.trans h)
      exact edge_of_not_recognises (hmask.trans hrec) cw
    | true =>
      obtain rfl := Host.Outcome.next.inj ((edge_eq_afterEdge hrec cw).symm.trans h)
      exact edge_eq_afterEdge (hmask.trans hrec) cw

/-- A step on events to come is the delivery of the first. -/
theorem step_cons_eq_delivered (e : Event) (es : List Event) (s : State) :
    step { s with stimulus := e :: es } = .next { delivered e s with stimulus := es } := by
  have hdeliver : onEvent e { s with stimulus := [] } = .next (delivered e s) := deliver_eq_delivered e s
  rw [step_of_cons rfl]
  exact onEvent_withStimulus hdeliver es

/-- A run through all the events to come is their delivery, one after the other. -/
theorem runFor_eq_foldl_delivered (es : List Event) {s : State} (hidle : s.stimulus = []) :
    runFor es.length { s with stimulus := es } = .next (es.foldl (fun u e => delivered e u) s) := by
  induction es generalizing s with
  | nil =>
    have hsame : { s with stimulus := [] } = s := by rw [← hidle]
    exact congrArg Host.Outcome.next hsame
  | cons e es ih => exact (runFor_succ (step_cons_eq_delivered e es s) es.length).trans (ih (delivered_stimulus e s))

/-! ### The infinite run -/

/-- The states of the infinite run. -/
def infiniteStates (st : Straps) (es : Nat → Event) : Nat → State
  | 0 => State.resetOf st
  | k + 1 => delivered (es k) (infiniteStates st es k)

section
variable (st : Straps) (es : Nat → Event)

theorem infiniteStates_isInfiniteRun : IsInfiniteRun st es (infiniteStates st es) :=
  ⟨rfl, fun k => deliver_eq_delivered (es k) _⟩

theorem infiniteStates_eq_foldl (k : Nat) :
    infiniteStates st es k = ((List.range k).map es).foldl (fun u e => delivered e u) (State.resetOf st) := by
  induction k with
  | zero => rfl
  | succ k ih =>
    rw [infiniteStates, ih, List.range_succ, List.map_append, List.foldl_append]
    rfl

theorem runFor_eq_infiniteStates (k : Nat) :
    runFor k { State.resetOf st with stimulus := (List.range k).map es } = .next (infiniteStates st es k) := by
  have hrun := runFor_eq_foldl_delivered ((List.range k).map es) (State.resetOf_stimulus st)
  rwa [List.length_map, List.length_range, ← infiniteStates_eq_foldl] at hrun

theorem after_eq_infiniteStates (k : Nat) :
    (Run.mk st (.infinite es)).after k = .next (infiniteStates st es k) := by
  induction k with
  | zero => exact Run.after_zero _
  | succ k ih => exact (Run.after_succ_of_some ih rfl).trans (deliver_eq_delivered (es k) _)

theorem infiniteStates_straps (k : Nat) : (infiniteStates st es k).straps = st := by
  induction k with
  | zero => rfl
  | succ k ih => exact (delivered_straps (es k) _).trans ih

/-- Legal straps and samples that fit keep the run in the invariant. -/
theorem infiniteStates_inv (hlegal : st.legal = true) (hfits : ∀ k, (es k).fits st.sampleW = true) (k : Nat) :
    (infiniteStates st es k).Inv := by
  induction k with
  | zero => exact State.inv_resetOf hlegal (es := []) fun _ he => absurd he List.not_mem_nil
  | succ k ih =>
    apply ih.delivered
    rw [infiniteStates_straps]
    exact hfits k

end

/-- Two runs on the same events start in the same state and are carried by each event to the same state. -/
theorem IsInfiniteRun.unique {st : Straps} {es : Nat → Event} {states states' : Nat → State}
    (h : IsInfiniteRun st es states) (h' : IsInfiniteRun st es states') : states' = states := by
  obtain ⟨hstart, hstep⟩ := h
  obtain ⟨hstart', hstep'⟩ := h'
  funext k
  induction k with
  | zero => rw [hstart, hstart']
  | succ k ih =>
    have hboth := (hstep' k).symm
    rw [ih, hstep k] at hboth
    exact Host.Outcome.next.inj hboth

/-- Settles O51: the run is `infiniteStates`, because every event leaves exactly one next state, and each of them keeps
the invariant. -/
theorem everyInfiniteRunExists : Obligations.EveryInfiniteRunExists := fun st es =>
  ⟨infiniteStates st es, infiniteStates_isInfiniteRun st es,
    fun _ h => (infiniteStates_isInfiniteRun st es).unique h,
    fun k => ⟨runFor_eq_infiniteStates st es k, after_eq_infiniteStates st es k⟩, infiniteStates_inv st es⟩

end Sys2Proof.Machine
end
